-- ==== Sys2Proof/Word.lean ====
section
/-! DEFINITION. The plain value types of the block (spec 00_scope.md R7, R8; 30_encoding.md R44, R45). -/

namespace Sys2Proof

/-- A byte, 0 to 255 (R7). -/
abbrev Byte := BitVec 8

/-- A raw count: 16 bits, unsigned (R6, R70). -/
abbrev Count := BitVec 16

/-- A bus address: 7 bits (R11, R27).  Legal values are 1 to 127. -/
abbrev BusAddr := BitVec 7

/-- The floating-point format `FMT` (R6, R44). -/
inductive Fmt where
  | binary64
  | binary32
  deriving DecidableEq, Repr, Inhabited

/-- One floating-point value as its bits, in one of the two formats of R44. -/
inductive Flt where
  | b64 (bits : BitVec 64)
  | b32 (bits : BitVec 32)
  deriving DecidableEq, Repr, Inhabited

/-- The format a value is encoded in. -/
def Flt.fmt : Flt → Fmt
  | .b64 _ => .binary64
  | .b32 _ => .binary32

/-- The value of format `f` whose bits are the low bits of `x`: used only for contents that the spec
leaves unspecified (R23). -/
def Flt.ofBits (f : Fmt) (x : BitVec 64) : Flt :=
  match f with
  | .binary64 => .b64 x
  | .binary32 => .b32 (x.setWidth 32)

end Sys2Proof
end

