-- ==== Sys2Proof/Machine/Crc.lean ====
section
/-! DEFINITION. The checksum datapath (spec 41_checksum.md R61, R62). -/

namespace Sys2Proof.Machine

/-- One iteration of R61: the top bit is tested before the shift; the bit shifted out is dropped. -/
def crcShift (c : Byte) : Byte := if c.msb then (c <<< 1) ^^^ 0x31 else c <<< 1

/-- R61: eight iterations. -/
def crcStep (c : Byte) : Byte := Nat.repeat crcShift 8 c

/-- R62: the initial value of the running register. -/
def crcInit : Byte := 0xFF

/-- R62 from the register content `c`: the high byte, then the low byte, one running state. -/
def crcRun (c h l : Byte) : Byte := crcStep (crcStep (c ^^^ h) ^^^ l)

/-- R62: the checksum of a 2-byte field. -/
def crc8 (h l : Byte) : Byte := crcRun crcInit h l

end Sys2Proof.Machine
end

