-- ==== Sys2Proof/Config.lean ====
section
/-! DEFINITION. The parameters an instance of the block is made with (spec 00_scope.md R6, 10_state.md R24),
the constants the source fixes, and the free values: what the spec leaves unspecified or to an external agent. -/

namespace Sys2Proof

/-- The answer to one `MemWrite` (R33). -/
inductive WriteAnswer where
  | ok
  | fail
  deriving DecidableEq, Repr, Inhabited

/-- The answer to one `MemRead(addr, 6)` (R34): failure, or a sequence of at most 6 bytes.  A longer one is
not an answer (U6) and cannot be written down. -/
inductive ReadAnswer where
  | fail
  | bytes (s : List Byte) (short : s.length ≤ 6)
  deriving DecidableEq, Repr, Inhabited

/-- The parameters of one instance (R6).  No operation changes them (R24). -/
structure Config where
  /-- `FMT`. -/
  fmt : Fmt
  /-- `ADDR_INIT`: the value of `ADDR` after reset.  OPEN in the spec (D11). -/
  addrInit : BusAddr
  /-- `PROBE_BYTE`: the byte `SCAN` writes.  OPEN in the spec, default 0x00 (D20). -/
  probeByte : Byte
  /-- `T_CONV`: the conversion wait in milliseconds (D12). -/
  tConv : Nat
  /-- Which Transport Adapter the host has injected (R24, R138): tells the free answers of one transport from
  those of another (log 3). -/
  transport : Nat
  deriving DecidableEq, Repr

/-- The limits the spec sets: `ADDR_INIT` in 1..127 (R23), `T_CONV` never below 15 ms (R144). -/
abbrev Config.Legal (c : Config) : Prop := c.addrInit ≠ 0 ∧ 15 ≤ c.tConv

/-- The values of R6.  DESIGN CHOICE (log 2): `ADDR_INIT` is OPEN; 0x44 is what the programs of
95_test_vectors.md section 4 are run with. -/
def Config.default : Config :=
  { fmt := .binary64, addrInit := 0x44, probeByte := 0x00, tConv := 20, transport := 0 }

/-- Unspecified bits (U1): the contents of `T_VAL` and `H_VAL` at reset.  A free value (log 1). -/
opaque Config.unspecifiedBits : Nat → BitVec 64

/-- The texts of the four error messages (R105, D17): a first character and the rest, so that every
non-empty text is one.  A free value (log 6); the argument is the code of `ERR`. -/
opaque Config.messageText : Nat → Char × List Char

/-- The oracle (R35): what a transport answers to its instance's n-th call when that call is a write and no
scripted answer is left.  A free value (log 3). -/
opaque Config.freeWriteAnswer : (transport n : Nat) → WriteAnswer

/-- The same when the call is a read. -/
opaque Config.freeReadAnswer : (transport n : Nat) → ReadAnswer

/-- The Measurement Command, R40. -/
def measurementCommand : List Byte := [0x2C, 0x06]

end Sys2Proof
end

