-- ==== Sys2Proof/Syntax.lean ====
section
/-! DEFINITION. The twelve operations (spec 30_encoding.md R48), one constructor per row of spec/opcode_table.json. -/

namespace Sys2Proof

/-- An operation with its operands, each one byte in the order of the command packet (R46, R47). -/
inductive Instr where
  | crc8 (hi lo : Byte)
  | chk (hi lo ck : Byte)
  | cvtt (hi lo : Byte)
  | cvth (hi lo : Byte)
  | frame (b0 b1 b2 b3 b4 b5 : Byte)
  | meas
  | gett
  | geth
  | geterr
  | setaddr (a : Byte)
  | getaddr
  | scan
  deriving DecidableEq, Repr

end Sys2Proof
end

