-- ==== Sys2Proof/Decode.lean ====
section
/-! DEFINITION. Command packets (spec 30_encoding.md R46 to R52): the opcode map, the decoder, the encoder after it,
the assembler line, the parse of a whole command stream, and the words of spec/opcode_table.json as bytes. -/

namespace Sys2Proof

/-- The five packet formats of R47. -/
inductive Format where
  | z | a | p | s | f
  deriving DecidableEq, Repr

/-- R49: the number of operand bytes of a format. -/
def Format.operandBytes : Format → Nat
  | .z => 0
  | .a => 1
  | .p => 2
  | .s => 3
  | .f => 6

/-- The mnemonics of R48. -/
inductive OpName where
  | crc8 | chk | cvtt | cvth | frame | meas | gett | geth | geterr | setaddr | getaddr | scan
  deriving DecidableEq, Repr

/-- The rows of R48 in their order. -/
def OpName.all : List OpName :=
  [.crc8, .chk, .cvtt, .cvth, .frame, .meas, .gett, .geth, .geterr, .setaddr, .getaddr, .scan]

/-- R48, column `OP`. -/
def OpName.opcode : OpName → Byte
  | .crc8 => 0x10
  | .chk => 0x11
  | .cvtt => 0x20
  | .cvth => 0x21
  | .frame => 0x30
  | .meas => 0x31
  | .gett => 0x40
  | .geth => 0x41
  | .geterr => 0x42
  | .setaddr => 0x43
  | .getaddr => 0x44
  | .scan => 0x50

/-- R48, column "format". -/
def OpName.format : OpName → Format
  | .crc8 => .p
  | .chk => .s
  | .cvtt => .p
  | .cvth => .p
  | .frame => .f
  | .meas => .z
  | .gett => .z
  | .geth => .z
  | .geterr => .z
  | .setaddr => .a
  | .getaddr => .z
  | .scan => .z

/-- The row of R48 with this opcode byte; `none` for a reserved one (R50). -/
def OpName.ofOpcode (op : Byte) : Option OpName := OpName.all.find? fun n => n.opcode == op

/-- What stands at the head of a command stream. -/
inductive Decoded where
  /-- A whole packet, and the bytes after it. -/
  | packet (i : Instr) (rest : List Byte)
  /-- A reserved opcode (R50), one byte long, and the bytes after it. -/
  | reserved (op : Byte) (rest : List Byte)
  /-- The stream ends inside the packet of this opcode (R49, U16). -/
  | incomplete (op : Byte)
  /-- The stream has ended. -/
  | streamEnd
  deriving DecidableEq, Repr

/-- The operand byte of a format `A` packet (R47). -/
def takeA (op : Byte) (build : Byte → Instr) : List Byte → Decoded
  | a :: rest => .packet (build a) rest
  | _ => .incomplete op

/-- The operand bytes of a format `P` packet (R47). -/
def takeP (op : Byte) (build : Byte → Byte → Instr) : List Byte → Decoded
  | hi :: lo :: rest => .packet (build hi lo) rest
  | _ => .incomplete op

/-- The operand bytes of a format `S` packet (R47). -/
def takeS (op : Byte) (build : Byte → Byte → Byte → Instr) : List Byte → Decoded
  | hi :: lo :: ck :: rest => .packet (build hi lo ck) rest
  | _ => .incomplete op

/-- The operand bytes of a format `F` packet (R47). -/
def takeF (op : Byte) (build : Byte → Byte → Byte → Byte → Byte → Byte → Instr) : List Byte → Decoded
  | b0 :: b1 :: b2 :: b3 :: b4 :: b5 :: rest => .packet (build b0 b1 b2 b3 b4 b5) rest
  | _ => .incomplete op

/-- The operands of the operation `n`, whose opcode byte was `op`. -/
def decodeOperands (op : Byte) (n : OpName) (rest : List Byte) : Decoded :=
  match n with
  | .crc8 => takeP op .crc8 rest
  | .chk => takeS op .chk rest
  | .cvtt => takeP op .cvtt rest
  | .cvth => takeP op .cvth rest
  | .frame => takeF op .frame rest
  | .meas => .packet .meas rest
  | .gett => .packet .gett rest
  | .geth => .packet .geth rest
  | .geterr => .packet .geterr rest
  | .setaddr => takeA op .setaddr rest
  | .getaddr => .packet .getaddr rest
  | .scan => .packet .scan rest

/-- R49: the opcode byte alone decides the operation and the packet's length; no operand and no state does
(R52). -/
def decode : List Byte → Decoded
  | [] => .streamEnd
  | op :: rest =>
    match OpName.ofOpcode op with
    | some n => decodeOperands op n rest
    | none => .reserved op rest

/-! The encoder. -/

/-- The row of R48 an operation belongs to. -/
def Instr.opName : Instr → OpName
  | .crc8 _ _ => .crc8
  | .chk _ _ _ => .chk
  | .cvtt _ _ => .cvtt
  | .cvth _ _ => .cvth
  | .frame _ _ _ _ _ _ => .frame
  | .meas => .meas
  | .gett => .gett
  | .geth => .geth
  | .geterr => .geterr
  | .setaddr _ => .setaddr
  | .getaddr => .getaddr
  | .scan => .scan

/-- The operand bytes in the order sent (R43, R47). -/
def Instr.operands : Instr → List Byte
  | .crc8 hi lo => [hi, lo]
  | .chk hi lo ck => [hi, lo, ck]
  | .cvtt hi lo => [hi, lo]
  | .cvth hi lo => [hi, lo]
  | .frame b0 b1 b2 b3 b4 b5 => [b0, b1, b2, b3, b4, b5]
  | .meas => []
  | .gett => []
  | .geth => []
  | .geterr => []
  | .setaddr a => [a]
  | .getaddr => []
  | .scan => []

/-- The command packet of an operation (R46). -/
def encode (i : Instr) : List Byte := i.opName.opcode :: i.operands

/-! The assembler line. -/

/-- R48, column "mnemonic". -/
def OpName.mnemonic : OpName → String
  | .crc8 => "CRC8"
  | .chk => "CHK"
  | .cvtt => "CVTT"
  | .cvth => "CVTH"
  | .frame => "FRAME"
  | .meas => "MEAS"
  | .gett => "GETT"
  | .geth => "GETH"
  | .geterr => "GETERR"
  | .setaddr => "SETADDR"
  | .getaddr => "GETADDR"
  | .scan => "SCAN"

/-- One hexadecimal digit. -/
def hexDigit (n : Nat) : Char := "0123456789ABCDEF".toList.getD n '0'

/-- An operand byte as R56 writes it, `0xHH`. -/
def byteText (b : Byte) : String := String.ofList ['0', 'x', hexDigit (b.toNat / 16), hexDigit (b.toNat % 16)]

/-- The line of an operation (R56): `MNEMONIC operand, operand, ...`. -/
def Instr.assembly (i : Instr) : String :=
  match i.operands.map byteText with
  | [] => i.opName.mnemonic
  | o :: os => i.opName.mnemonic ++ " " ++ os.foldl (fun line t => line ++ ", " ++ t) o

/-! Whole command streams. -/

/-- One element of a well-formed command stream: an operation's packet or a reserved opcode byte. -/
inductive Packet where
  | operation (i : Instr)
  | reserved (op : Byte)
  deriving DecidableEq, Repr

/-- The bytes of one element. -/
def Packet.bytes : Packet → List Byte
  | .operation i => encode i
  | .reserved op => [op]

/-- The elements of the stream `bs`, at most `fuel` of them; `none` where the stream ends inside a packet
(R49: not a well-formed stream) or the fuel does not reach. -/
def parseStream : Nat → List Byte → Option (List Packet)
  | 0, bs => if bs.isEmpty then some [] else none
  | fuel + 1, bs =>
    match decode bs with
    | .packet i rest => (parseStream fuel rest).map (.operation i :: ·)
    | .reserved op rest => (parseStream fuel rest).map (.reserved op :: ·)
    | .incomplete _ => none
    | .streamEnd => some []

/-! The words of spec/opcode_table.json. -/

/-- The length of the longest packet (format `F`). -/
def longestPacket : Nat := 7

/-- The length of the packet that begins with `op`: 1 for a reserved opcode (R50). -/
def packetLength (op : Byte) : Nat :=
  match OpName.ofOpcode op with
  | some n => 1 + n.format.operandBytes
  | none => 1

/-- The packet whose bits are `w` as the table numbers them: "the whole packet read as one ... number, byte 0
(the opcode byte, sent first) most significant" (R49; log 9).  Bytes the table gives no bits are zero, and
nothing stands after the packet that byte 0 names. -/
def tableBytes (nbits w : Nat) : List Byte :=
  let n := nbits / 8
  let given : List Byte := (List.range n).map fun k => BitVec.ofNat 8 (w >>> (8 * (n - 1 - k)))
  match given ++ List.replicate (longestPacket - n) 0 with
  | [] => []
  | op :: rest => (op :: rest).take (packetLength op)

/-- The operation the decoder reads from a word of the table. -/
def decodeTableWord (nbits w : Nat) : Option Instr :=
  match decode (tableBytes nbits w) with
  | .packet i _ => some i
  | .reserved _ _ => none
  | .incomplete _ => none
  | .streamEnd => none

end Sys2Proof
end

