-- ==== Sys2Proof/Machine/State.lean ====
section
/-! DEFINITION. The machine's state (spec 10_state.md), the answers and events at its boundary, the reasons a step
stops, and the state after reset. -/

namespace Sys2Proof.Machine

/-- `ERR` (R12): an enumeration of the five legal codes, in the order of the codes 0 to 4. -/
inductive Err where
  | none
  | transportWriteFailed
  | transportReadFailed
  | checksumFailedTemperature
  | checksumFailedHumidity
  deriving DecidableEq, Repr

/-- The frame buffer `FB[0..5]` (R17, R26), under the field names of R41. -/
structure Frame where
  /-- `FB[0]`. -/
  tHi : Byte
  /-- `FB[1]`. -/
  tLo : Byte
  /-- `FB[2]`. -/
  tCk : Byte
  /-- `FB[3]`. -/
  hHi : Byte
  /-- `FB[4]`. -/
  hLo : Byte
  /-- `FB[5]`. -/
  hCk : Byte
  deriving DecidableEq, Repr

/-- `phase` (R19), each value holding the transient state that is live in it (R16 to R18): `crc`, loaded with
its initial value on entry to a check, `FB`, `t_raw`, `h_raw`, `t_tmp`, `h_tmp`.  What an operation has not
written yet does not exist, so it cannot be read (R23). -/
inductive Phase where
  | idle
  /-- Step 2: the command write is to be issued. -/
  | write
  /-- Step 3: the conversion wait. -/
  | wait
  /-- Step 4: the frame read is to be issued. -/
  | read
  /-- Step 6. -/
  | chkT (crc : Byte) (fb : Frame)
  /-- Step 7. -/
  | cvtT (fb : Frame) (tRaw : Count)
  /-- Step 8. -/
  | chkH (crc : Byte) (fb : Frame) (tTmp : Flt)
  /-- Step 9. -/
  | cvtH (tTmp : Flt) (hRaw : Count)
  /-- Step 10. -/
  | commit (tTmp hTmp : Flt)
  deriving DecidableEq, Repr

/-- What can be seen at the block's boundary, and the writes of `ERR` and the caches, in order (R91). -/
inductive Event where
  | errCleared
  | write (addr : BusAddr) (bytes : List Byte) (answer : WriteAnswer)
  | delay (ms : Nat)
  | read (addr : BusAddr) (count : Nat) (answer : ReadAnswer)
  | errSet (e : Err)
  | commit (t h : Flt)
  /-- The response packet sent to the host (R53). -/
  | response (bytes : List Byte)
  deriving DecidableEq, Repr

/-- The answers of the operations as typed values (R55). -/
inductive Response where
  /-- `REFUSED` (R50, R51). -/
  | refused
  /-- `NORESULT`: a failed read attempt. -/
  | noResult
  /-- `SETADDR` with a legal operand. -/
  | ok
  /-- `CRC8`. -/
  | checksum (c : Byte)
  /-- `CHK`. -/
  | verdict (isMatch : Bool)
  /-- `CVTT`, `CVTH`. -/
  | value (v : Flt)
  /-- A Measurement Result: `FRAME`, `MEAS`. -/
  | result (t h : Flt)
  /-- `GETT`, `GETH`: `HAVE` and the cached value. -/
  | cached (haveFlag : Bool) (v : Flt)
  /-- `GETERR`. -/
  | classification (e : Err)
  /-- `GETADDR`. -/
  | address (a : BusAddr)
  /-- `SCAN`. -/
  | addresses (found : List BusAddr)
  deriving DecidableEq, Repr

/-- One instance of the block with what stands at its boundary. -/
structure State where
  /-- The parameters of the instance (R6); not state of the block (R24). -/
  cfg : Config
  /-- `ADDR` (R11). -/
  addr : BusAddr
  /-- `ERR` (R12). -/
  err : Err
  /-- `HAVE` (R13). -/
  haveFlag : Bool
  /-- `T_VAL` (R14). -/
  tVal : Flt
  /-- `H_VAL` (R15). -/
  hVal : Flt
  /-- `phase` and the transient state (R16 to R19). -/
  phase : Phase
  /-- The host's command stream, still to be consumed (R46, R148). -/
  input : List Byte
  /-- The transport's answers to the next writes, first one first (R35: a script). -/
  writeScript : List WriteAnswer
  /-- The transport's answers to the next reads, first one first. -/
  readScript : List ReadAnswer
  /-- The model's own: the number of transport calls made, the index of the next free answer (log 3). -/
  calls : Nat
  /-- The model's own: the events so far, oldest first (R91). -/
  history : List Event
  deriving DecidableEq, Repr

/-- The block has no fault: "The core never raises a fatal/unrecoverable fault" (R126). -/
inductive Fault where
  deriving DecidableEq, Repr

/-- Why there is no next state.  All are safe: the machine is not asked to go on. -/
inductive Refusal where
  /-- An instruction without a meaning, raised by `exec` alone.  No arm does. -/
  | notModelled (mnemonic : String)
  /-- Raised by `step`: the command stream ends inside the packet of this opcode (R49, U16). -/
  | incompletePacket (op : Byte)
  /-- Raised by `step`: the host has issued nothing, so the run is over (R148). -/
  | streamEnded
  /-- Raised by `hostSend`: the host may not move towards an instance that is busy (R140, U2). -/
  | hostMoveWhileBusy
  /-- Raised by `hostReset`: reset has no meaning while an operation is pending (R137, U11). -/
  | resetWhileBusy
  deriving DecidableEq, Repr

/-- The instance right after the creation of its Device Handle (R23, R135, R136), with parameters `c` and the
unspecified contents `t` and `h` of `T_VAL` and `H_VAL`.  No transport call is made. -/
def State.create (c : Config) (t h : BitVec 64) : State :=
  { cfg := c, addr := c.addrInit, err := .none, haveFlag := false,
    tVal := Flt.ofBits c.fmt t, hVal := Flt.ofBits c.fmt h, phase := .idle,
    input := [], writeScript := [], readScript := [], calls := 0, history := [] }

/-- The machine right after reset, with the parameter values of R6; the caches hold free values (log 1). -/
def State.reset : State :=
  State.create Config.default (Config.unspecifiedBits 0) (Config.unspecifiedBits 1)

end Sys2Proof.Machine
end

