-- ==== Sys2Proof/Machine/Flags.lean ====
section
/-! DEFINITION. The three one-bit facts that play the role of flags (spec 10_state.md R21). -/

namespace Sys2Proof.Machine

/-- `match` (R21, R64) from the register content `crc`: the computed value equals the check byte. -/
def checkMatches (crc hi lo ck : Byte) : Bool := crcRun crc hi lo == ck

/-- `HAVE` as the byte of a response (R54). -/
def haveByte (h : Bool) : Byte := if h then 0x01 else 0x00

/-- The verdict of `CHK` as a byte (R54). -/
def verdictByte (m : Bool) : Byte := if m then 0x01 else 0x00

/-- `present` (R21): whether the answer to a read attempt is a Measurement Result. -/
def present : Response → Bool
  | .result _ _ => true
  | .refused => false
  | .noResult => false
  | .ok => false
  | .checksum _ => false
  | .verdict _ => false
  | .value _ => false
  | .cached _ _ => false
  | .classification _ => false
  | .address _ => false
  | .addresses _ => false

end Sys2Proof.Machine
end

