-- ==== Sys2Proof/WellFormed.lean ====
section
/-! DEFINITION. Which operations have legal operands (spec 30_encoding.md R45, R51). -/

namespace Sys2Proof

/-- An address byte is legal when it is 0x01 to 0x7F (R45). -/
def addressByteLegal (a : Byte) : Bool := a != 0x00 && !a.msb

/-- R51: the only operand with illegal values is the address byte of `SETADDR`.  An operation that is not
well formed is still decoded and executed: its meaning answers `REFUSED`. -/
def Instr.wellFormed : Instr → Bool
  | .crc8 _ _ => true
  | .chk _ _ _ => true
  | .cvtt _ _ => true
  | .cvth _ _ => true
  | .frame _ _ _ _ _ _ => true
  | .meas => true
  | .gett => true
  | .geth => true
  | .geterr => true
  | .setaddr a => addressByteLegal a
  | .getaddr => true
  | .scan => true

end Sys2Proof
end

