-- ==== Sys2Proof/Machine/Operands.lean ====
section
/-! DEFINITION. Operand forms and byte order: the raw count (spec 42_convert.md R70), the frame buffer (20_memory.md R26),
the address byte (30_encoding.md R45), floats as bytes (R44). -/

namespace Sys2Proof.Machine

/-- R70: `raw(h, l) = (h << 8) | l`, unsigned. -/
def raw (h l : Byte) : Count := (h.setWidth 16 <<< 8) ||| l.setWidth 16

/-- R34, R88: byte `i` of the answer to `FB[i]`; `none` when it is not exactly 6 bytes long. -/
def frameOfBytes : List Byte → Option Frame
  | [b0, b1, b2, b3, b4, b5] => some ⟨b0, b1, b2, b3, b4, b5⟩
  | _ => none

/-- `FB[i]` (R26). -/
def Frame.byte (fb : Frame) : Fin 6 → Byte
  | 0 => fb.tHi
  | 1 => fb.tLo
  | 2 => fb.tCk
  | 3 => fb.hHi
  | 4 => fb.hLo
  | 5 => fb.hCk

/-- R45: the address of a legal address byte, its bits 6..0. -/
def addressOfByte (a : Byte) : BusAddr := a.setWidth 7

/-- R45: an address as a byte, bit 7 zero. -/
def byteOfAddress (a : BusAddr) : Byte := a.setWidth 8

/-- The `n` low bytes of `x`, most significant first (R28, R44). -/
def bytesBE (n : Nat) {w : Nat} (x : BitVec w) : List Byte :=
  (List.range n).map fun i => x.extractLsb' (8 * (n - 1 - i)) 8

/-- `F(v)` of R54: a float as `FMT/8` bytes, the byte that holds the sign first (R44). -/
def floatBytes : Flt → List Byte
  | .b64 x => bytesBE 8 x
  | .b32 x => bytesBE 4 x

/-- R27, R110: every valid bus address, ascending, once each. -/
def validAddresses : List BusAddr := (List.range 127).map fun i => BitVec.ofNat 7 (i + 1)

end Sys2Proof.Machine
end

