-- ==== Sys2Proof/Machine/Ops.lean ====
section
/-! DEFINITION. The named operations over registers, transport and host port: responses (spec 30_encoding.md R53, R54),
register writes, transport calls (20_memory.md R33, R34), the wait (70_reset_and_hazards.md R146), `raise`
(60_exceptions.md R121) and the clearing beside it (R124), the commit (43_measure.md R90). -/

namespace Sys2Proof.Machine

/-- The code of R12, 3 bits. -/
def Err.code : Err → BitVec 3
  | .none => 0
  | .transportWriteFailed => 1
  | .transportReadFailed => 2
  | .checksumFailedTemperature => 3
  | .checksumFailedHumidity => 4

/-- The response packet of R53 and R54. -/
def Response.bytes : Response → List Byte
  | .refused => [0xFF]
  | .noResult => [0x00]
  | .ok => [0x01]
  | .checksum c => [0x01, c]
  | .verdict m => [0x01, verdictByte m]
  | .value v => 0x01 :: floatBytes v
  | .result t h => 0x01 :: (floatBytes t ++ floatBytes h)
  | .cached h v => 0x01 :: haveByte h :: floatBytes v
  | .classification e => [0x01, e.code.setWidth 8]
  | .address a => [0x01, byteOfAddress a]
  | .addresses found => 0x01 :: BitVec.ofNat 8 found.length :: found.map byteOfAddress

/-! Register writes (R8: `REG <- v`). -/

/-- Append an event to the history. -/
def State.logEvent (e : Event) (s : State) : State := { s with history := s.history ++ [e] }

/-- `ERR <- e`. -/
def State.withErr (e : Err) (s : State) : State := { s with err := e }

/-- `ADDR <- a`. -/
def State.withAddr (a : BusAddr) (s : State) : State := { s with addr := a }

/-- `phase <- p`. -/
def State.withPhase (p : Phase) (s : State) : State := { s with phase := p }

/-- The command stream after a packet has been consumed. -/
def State.withInput (bs : List Byte) (s : State) : State := { s with input := bs }

/-- The three writes of the commit, one indivisible update (R90). -/
def State.withCache (t h : Flt) (s : State) : State := { s with tVal := t, hVal := h, haveFlag := true }

/-! The host port. -/

/-- Send the response packet (R53). -/
def State.respond (r : Response) (s : State) : State := s.logEvent (.response r.bytes)

/-- The response packet sent last, when nothing has happened since. -/
def State.lastResponse (s : State) : Option (List Byte) :=
  match s.history.getLast? with
  | some (.response bs) => some bs
  | _ => none

/-! The transport and the timer. -/

/-- The transport's answer if the next call is a write: the script's, or a free one when the script has run
out (R35). -/
def State.nextWrite (s : State) : WriteAnswer :=
  s.writeScript.head?.getD (Config.freeWriteAnswer s.cfg.transport s.calls)

/-- The same for a read. -/
def State.nextRead (s : State) : ReadAnswer :=
  s.readScript.head?.getD (Config.freeReadAnswer s.cfg.transport s.calls)

/-- `MemWrite(a, len(bytes), bytes)` (R33); its answer is `nextWrite`. -/
def State.transportWrite (a : BusAddr) (bytes : List Byte) (s : State) : State :=
  { s with
    writeScript := s.writeScript.tail
    calls := s.calls + 1
    history := s.history ++ [.write a bytes s.nextWrite] }

/-- `MemRead(a, n)` (R34); its answer is `nextRead`. -/
def State.transportRead (a : BusAddr) (n : Nat) (s : State) : State :=
  { s with
    readScript := s.readScript.tail
    calls := s.calls + 1
    history := s.history ++ [.read a n s.nextRead] }

/-- `Delay(ms)` (R146): an event, no time. -/
def State.delay (ms : Nat) (s : State) : State := s.logEvent (.delay ms)

/-! Errors: the block's exceptions. -/

/-- `raise E` (R121): record the classification, end the operation, answer "no result". -/
def State.raise (e : Err) (s : State) : State :=
  (((s.withErr e).withPhase .idle).logEvent (.errSet e)).respond .noResult

/-- The clearing at the start of every read attempt (R124, step 1).  There is no return from an error. -/
def State.clearErr (s : State) : State := (s.withErr .none).logEvent .errCleared

/-- Step 10 (R86, R90, R92): commit both values and return the same two. -/
def State.commitAndReturn (t h : Flt) (s : State) : State :=
  (((s.withCache t h).withPhase .idle).logEvent (.commit t h)).respond (.result t h)

/-! The command stream. -/

/-- What stands at the head of the command stream. -/
def State.fetch (s : State) : Decoded := decode s.input

/-- R50: a reserved opcode is answered `REFUSED` and changes no state. -/
def State.answerReserved (s : State) : State := s.respond .refused

end Sys2Proof.Machine
end

