-- ==== Sys2Proof/Machine/Access.lean ====
section
/-! DEFINITION. The access family (spec 44_access.md R100 to R105): `GETT`, `GETH`, `GETERR`, `SETADDR`, `GETADDR`, and the
host's message function. -/

namespace Sys2Proof.Machine

/-- `GETT` (R100). -/
def execGett (s : State) : Host.Outcome State Fault Refusal :=
  .next (s.respond (.cached s.haveFlag s.tVal))

/-- `GETH` (R101). -/
def execGeth (s : State) : Host.Outcome State Fault Refusal :=
  .next (s.respond (.cached s.haveFlag s.hVal))

/-- `GETERR` (R102). -/
def execGeterr (s : State) : Host.Outcome State Fault Refusal :=
  .next (s.respond (.classification s.err))

/-- `SETADDR a` (R103): an illegal address byte is refused and changes nothing. -/
def execSetaddr (a : Byte) (s : State) : Host.Outcome State Fault Refusal :=
  .next (if addressByteLegal a then (s.withAddr (addressOfByte a)).respond .ok else s.respond .refused)

/-- `GETADDR` (R104). -/
def execGetaddr (s : State) : Host.Outcome State Fault Refusal :=
  .next (s.respond (.address s.addr))

/-- `MSG` (R105): the host turns the code that `GETERR` answers into text. -/
def message (e : Err) : String :=
  match e with
  | .none => ""
  | .transportWriteFailed => text e
  | .transportReadFailed => text e
  | .checksumFailedTemperature => text e
  | .checksumFailedHumidity => text e
where
  /-- A text that is not empty; which one is left open. -/
  text (e : Err) : String :=
    let t := Config.messageText e.code.toNat
    String.ofList (t.1 :: t.2)

end Sys2Proof.Machine
end

