-- ==== Sys2Proof/Machine/Checksum.lean ====
section
/-! DEFINITION. The checksum family (spec 41_checksum.md R63, R64): `CRC8`, `CHK`. -/

namespace Sys2Proof.Machine

/-- `CRC8 hi, lo` (R63). -/
def execCrc8 (hi lo : Byte) (s : State) : Host.Outcome State Fault Refusal :=
  .next (s.respond (.checksum (crc8 hi lo)))

/-- `CHK hi, lo, ck` (R64): a mismatch is an answer, not an error. -/
def execChk (hi lo ck : Byte) (s : State) : Host.Outcome State Fault Refusal :=
  .next (s.respond (.verdict (checkMatches crcInit hi lo ck)))

end Sys2Proof.Machine
end

