-- ==== Sys2Proof/Machine/Float.lean ====
section
/-! DEFINITION. The conversion datapath (spec 42_convert.md R71 to R78): exact rationals, one rounding per operation,
the IEEE 754 layout of 30_encoding.md R44. -/

namespace Sys2Proof.Machine

/-- The precision `p` of R74. -/
def precision : Fmt → Nat
  | .binary64 => 53
  | .binary32 => 24

/-- The exponent bias of R44. -/
def bias : Fmt → Int
  | .binary64 => 1023
  | .binary32 => 127

/-- A binary value: `mant * 2^exp`, negated when `neg`. -/
structure Binary where
  neg : Bool
  mant : Nat
  exp : Int
  deriving DecidableEq, Repr

/-- `rne` of R74: the integer nearest to `num / den`, a tie to the even one. -/
def rne (num den : Nat) : Nat :=
  let q := num / den
  let r := num % den
  if 2 * r < den ∨ (2 * r = den ∧ q % 2 = 0) then q else q + 1

/-- `floor(log2 (num / den))` for positive `num` and `den`. -/
def floorLog2 (num den : Nat) : Int :=
  let e : Int := (num.log2 : Int) - (den.log2 : Int)
  if den * 2 ^ e.toNat ≤ num * 2 ^ (-e).toNat then e else e - 1

/-- R74: `RN(num / den)`, for `den > 0`: `u * rne(|x| / u)` with the sign of `x`, `u = 2^(e - p + 1)`; `RN(0) = +0`.
For the values that occur no overflow or underflow is possible (R81). -/
def rn (f : Fmt) (num : Int) (den : Nat) : Binary :=
  if num = 0 then ⟨false, 0, 0⟩
  else
    let n := num.natAbs
    let k : Int := floorLog2 n den - precision f + 1
    ⟨num < 0, rne (n * 2 ^ (-k).toNat) (den * 2 ^ k.toNat), k⟩

/-- The signed integer `±mant`. -/
def Binary.signed (x : Binary) : Int := if x.neg then -(x.mant : Int) else x.mant

/-- The numerator over `Binary.den` of the exact difference `x - n`. -/
def Binary.subNum (x : Binary) (n : Nat) : Int :=
  x.signed * 2 ^ x.exp.toNat - n * 2 ^ (-x.exp).toNat

/-- The denominator of the value `x`, a power of two. -/
def Binary.den (x : Binary) : Nat := 2 ^ (-x.exp).toNat

/-- The fields of R44 as one number below the sign bit, for a `p`-bit mantissa: exponent `e + bias` above the
fraction; a mantissa rounded up to `2^p` carries into the exponent. -/
def Binary.magnitude (f : Fmt) (x : Binary) : Nat :=
  if x.mant = 0 then 0
  else (x.exp + (precision f - 1) + bias f).toNat * 2 ^ (precision f - 1) + (x.mant - 2 ^ (precision f - 1))

/-- R44: the encoding of a binary value in format `f`. -/
def Binary.encode (f : Fmt) (x : Binary) : Flt :=
  match f with
  | .binary64 => .b64 (BitVec.ofBool x.neg ++ BitVec.ofNat 63 (x.magnitude f))
  | .binary32 => .b32 (BitVec.ofBool x.neg ++ BitVec.ofNat 31 (x.magnitude f))

/-- R76 before encoding: product (exact), one rounded division, one rounded subtraction. -/
def temperature (f : Fmt) (c : Count) : Binary :=
  let p := c.toNat * 175
  let q := rn f p 65535
  rn f (q.subNum 45) q.den

/-- R78 before encoding: product (exact), one rounded division. -/
def humidity (f : Fmt) (c : Count) : Binary :=
  let p := c.toNat * 100
  rn f p 65535

/-- `cvt_t` (R76): a temperature count to degrees Celsius in format `f`. -/
def cvtT (f : Fmt) (c : Count) : Flt := (temperature f c).encode f

/-- `cvt_h` (R78): a humidity count to percent relative humidity in format `f`. -/
def cvtH (f : Fmt) (c : Count) : Flt := (humidity f c).encode f

end Sys2Proof.Machine
end

