-- ==== Sys2Proof/Machine/Conversion.lean ====
section
/-! DEFINITION. The conversion family (spec 42_convert.md R77, R79): `CVTT`, `CVTH`. -/

namespace Sys2Proof.Machine

/-- `CVTT hi, lo` (R77). -/
def execCvtt (hi lo : Byte) (s : State) : Host.Outcome State Fault Refusal :=
  .next (s.respond (.value (cvtT s.cfg.fmt (raw hi lo))))

/-- `CVTH hi, lo` (R79). -/
def execCvth (hi lo : Byte) (s : State) : Host.Outcome State Fault Refusal :=
  .next (s.respond (.value (cvtH s.cfg.fmt (raw hi lo))))

end Sys2Proof.Machine
end

