-- ==== Sys2Proof/Machine/Sequencer.lean ====
section
/-! DEFINITION. The sequencer of a read attempt (spec 10_state.md R19; 43_measure.md R86, R88): one step per phase, and
the run to the end of the operation. -/

namespace Sys2Proof.Machine

/-- Step 2: the command write. -/
def State.stepWrite (s : State) : State :=
  match s.nextWrite with
  | .ok => (s.transportWrite s.addr measurementCommand).withPhase .wait
  | .fail => (s.transportWrite s.addr measurementCommand).raise .transportWriteFailed

/-- Step 3: the conversion wait. -/
def State.stepWait (s : State) : State := (s.delay s.cfg.tConv).withPhase .read

/-- Step 4: the frame read; on entry to step 6 `FB` is filled and `crc` loaded with its initial value. -/
def State.stepRead (s : State) : State :=
  match s.nextRead with
  | .fail => (s.transportRead s.addr 6).raise .transportReadFailed
  | .bytes bs _ =>
    match frameOfBytes bs with
    | none => (s.transportRead s.addr 6).raise .transportReadFailed
    | some fb => (s.transportRead s.addr 6).withPhase (.chkT crcInit fb)

/-- Step 6: validate the temperature sub-frame; on success `t_raw` is assembled for step 7. -/
def State.stepChkT (crc : Byte) (fb : Frame) (s : State) : State :=
  if checkMatches crc fb.tHi fb.tLo fb.tCk then s.withPhase (.cvtT fb (raw fb.tHi fb.tLo))
  else s.raise .checksumFailedTemperature

/-- Step 7: convert the temperature; `crc` starts again from its initial value for step 8 (R16). -/
def State.stepCvtT (fb : Frame) (tRaw : Count) (s : State) : State :=
  s.withPhase (.chkH crcInit fb (cvtT s.cfg.fmt tRaw))

/-- Step 8: validate the humidity sub-frame; on success `h_raw` is assembled for step 9. -/
def State.stepChkH (crc : Byte) (fb : Frame) (tTmp : Flt) (s : State) : State :=
  if checkMatches crc fb.hHi fb.hLo fb.hCk then s.withPhase (.cvtH tTmp (raw fb.hHi fb.hLo))
  else s.raise .checksumFailedHumidity

/-- Step 9: convert the humidity. -/
def State.stepCvtH (tTmp : Flt) (hRaw : Count) (s : State) : State :=
  s.withPhase (.commit tTmp (cvtH s.cfg.fmt hRaw))

/-- One phase of the operation in progress; nothing when idle. -/
def State.advance (s : State) : State :=
  match s.phase with
  | .idle => s
  | .write => s.stepWrite
  | .wait => s.stepWait
  | .read => s.stepRead
  | .chkT crc fb => s.stepChkT crc fb
  | .cvtT fb tRaw => s.stepCvtT fb tRaw
  | .chkH crc fb tTmp => s.stepChkH crc fb tTmp
  | .cvtH tTmp hRaw => s.stepCvtH tTmp hRaw
  | .commit tTmp hTmp => s.commitAndReturn tTmp hTmp

/-- `n` phases. -/
def State.advanceN : Nat → State → State
  | 0, s => s
  | n + 1, s => State.advanceN n s.advance

/-- How many phases there are besides `IDLE` (R19): `phase` only goes forward, so no operation needs more. -/
def phaseCount : Nat := 8

/-- The operation in progress, to its end. -/
def State.finish (s : State) : State := State.advanceN phaseCount s

end Sys2Proof.Machine
end

