-- ==== Sys2Proof/Machine/Measurement.lean ====
section
/-! DEFINITION. The measurement family (spec 43_measure.md R87, R88): `FRAME`, `MEAS`.  Each is the read attempt from its
first step to its last (log 4). -/

namespace Sys2Proof.Machine

/-- `MEAS` after its step 1: `ERR` cleared, the command write next. -/
def State.beginMeas (s : State) : State := s.clearErr.withPhase .write

/-- `FRAME` after its steps 1 and 5: `ERR` cleared, `FB` filled, the temperature check next. -/
def State.beginFrame (fb : Frame) (s : State) : State := s.clearErr.withPhase (.chkT crcInit fb)

/-- `FRAME b0, ..., b5` (R87). -/
def execFrame (b0 b1 b2 b3 b4 b5 : Byte) (s : State) : Host.Outcome State Fault Refusal :=
  .next (s.beginFrame ⟨b0, b1, b2, b3, b4, b5⟩).finish

/-- `MEAS` (R88). -/
def execMeas (s : State) : Host.Outcome State Fault Refusal := .next s.beginMeas.finish

end Sys2Proof.Machine
end

