-- ==== Sys2Proof/Machine/Peripheral.lean ====
section
/-! DEFINITION. The peripheral family (spec 45_peripheral.md R110, R111): `SCAN`. -/

namespace Sys2Proof.Machine

/-- One probe of R110. -/
def State.probe (a : BusAddr) (s : State) : State := s.transportWrite a [s.cfg.probeByte]

/-- The loop of R110: the addresses that acknowledge, in the order probed, and the state after the probes. -/
def scanFrom : List BusAddr → State → List BusAddr × State
  | [], s => ([], s)
  | a :: as, s =>
    let found := scanFrom as (s.probe a)
    match s.nextWrite with
    | .ok => (a :: found.1, found.2)
    | .fail => found

/-- `SCAN` (R110). -/
def execScan (s : State) : Host.Outcome State Fault Refusal :=
  let found := scanFrom validAddresses s
  .next (found.2.respond (.addresses found.1))

end Sys2Proof.Machine
end

