-- ==== Sys2Proof/Machine/Dispatch.lean ====
section
/-! DEFINITION. One arm per operation (spec 30_encoding.md R48). -/

namespace Sys2Proof.Machine

def exec (i : Instr) (s : State) : Host.Outcome State Fault Refusal :=
  match i with
  | .crc8 hi lo => Sys2Proof.Machine.execCrc8 hi lo s
  | .chk hi lo ck => Sys2Proof.Machine.execChk hi lo ck s
  | .cvtt hi lo => Sys2Proof.Machine.execCvtt hi lo s
  | .cvth hi lo => Sys2Proof.Machine.execCvth hi lo s
  | .frame b0 b1 b2 b3 b4 b5 => Sys2Proof.Machine.execFrame b0 b1 b2 b3 b4 b5 s
  | .meas => Sys2Proof.Machine.execMeas s
  | .gett => Sys2Proof.Machine.execGett s
  | .geth => Sys2Proof.Machine.execGeth s
  | .geterr => Sys2Proof.Machine.execGeterr s
  | .setaddr a => Sys2Proof.Machine.execSetaddr a s
  | .getaddr => Sys2Proof.Machine.execGetaddr s
  | .scan => Sys2Proof.Machine.execScan s

end Sys2Proof.Machine
end

