-- ==== Sys2Proof/Machine/Step.lean ====
section
/-! DEFINITION. One step of the instance (spec 30_encoding.md R46, R49, R50; 70_reset_and_hazards.md R140, R148). -/

namespace Sys2Proof.Machine

/-- An instance that is busy goes on with its operation (R19, R140).  An idle one consumes the packet at the
head of the command stream and executes it to its end (R46). -/
def step (s : State) : Host.Outcome State Fault Refusal :=
  match s.phase with
  | .idle =>
    match s.fetch with
    | .packet i rest => exec i (s.withInput rest)
    | .reserved _ rest => .next (s.withInput rest).answerReserved
    | .incomplete op => .refused (.incompletePacket op)
    | .streamEnd => .refused .streamEnded
  | _ => .next s.advance

/-- `s`, idle, with the packet of a table word next in the command stream (log 10): the host issues it. -/
def State.withFetchWord (s : State) (nbits w : Nat) : State :=
  { s with phase := .idle, input := tableBytes nbits w ++ s.input }

end Sys2Proof.Machine
end

