-- ==== Sys2Proof/Machine/HostPort.lean ====
section
/-! DEFINITION. What the host may do to an instance between steps (spec 70_reset_and_hazards.md R135 to R140): issue command
bytes, bind scripted transport answers, create the instance anew.  `step` uses none of these. -/

namespace Sys2Proof.Machine

/-- R140: the host issues command bytes; it has no move towards a busy instance. -/
def hostSend (bytes : List Byte) (s : State) : Host.Outcome State Fault Refusal :=
  if s.phase = .idle then .next (s.withInput (s.input ++ bytes)) else .refused .hostMoveWhileBusy

/-- R135 to R137: a new instance, whose state owes nothing to the old one; no meaning while an operation is
pending. -/
def hostReset (c : Config) (t h : BitVec 64) (s : State) : Host.Outcome State Fault Refusal :=
  if s.phase = .idle then .next (State.create c t h) else .refused .resetWhileBusy

/-- R35, R138: answers the transport will give, after those already bound. -/
def bindTransport (writes : List WriteAnswer) (reads : List ReadAnswer) (s : State) : State :=
  { s with writeScript := s.writeScript ++ writes, readScript := s.readScript ++ reads }

end Sys2Proof.Machine
end

