-- ==== Sys2Proof/Machine/PhaseStep.lean ====
section
/-! DEFINITION. The event-sequence reading of spec 10_state.md R19: every operation but `MEAS` is one atomic step, and `MEAS`
is one step per phase, so that an instance can be found busy between two of them (43_measure.md R91). -/

namespace Sys2Proof.Machine

/-- Begin an operation: `MEAS` stops after its step 1 with the command write to be issued, every other runs to
its end. -/
def beginOperation (i : Instr) (s : State) : Host.Outcome State Fault Refusal :=
  match i with
  | .meas => .next s.beginMeas
  | .crc8 hi lo => execCrc8 hi lo s
  | .chk hi lo ck => execChk hi lo ck s
  | .cvtt hi lo => execCvtt hi lo s
  | .cvth hi lo => execCvth hi lo s
  | .frame b0 b1 b2 b3 b4 b5 => execFrame b0 b1 b2 b3 b4 b5 s
  | .gett => execGett s
  | .geth => execGeth s
  | .geterr => execGeterr s
  | .setaddr a => execSetaddr a s
  | .getaddr => execGetaddr s
  | .scan => execScan s

/-- One phase of a busy instance, or the beginning of the operation an idle one finds in its command stream. -/
def phaseStep (s : State) : Host.Outcome State Fault Refusal :=
  match s.phase with
  | .idle =>
    match s.fetch with
    | .packet i rest => beginOperation i (s.withInput rest)
    | .reserved _ rest => .next (s.withInput rest).answerReserved
    | .incomplete op => .refused (.incompletePacket op)
    | .streamEnd => .refused .streamEnded
  | _ => .next s.advance

/-- `n` such steps. -/
def phaseRun : Nat → State → Host.Outcome State Fault Refusal
  | 0, s => .next s
  | n + 1, s =>
    match phaseStep s with
    | .next t => phaseRun n t
    | .fault f => .fault f
    | .refused r => .refused r

end Sys2Proof.Machine
end

