-- ==== Sys2Proof/Safety.lean ====
section
/-! DEFINITION. The terms claims are stated in: real values of floats (spec 30_encoding.md R44), the invariants of the
state (10_state.md R11 to R19), what a history says of the registers (43_measure.md R90, R91), the answers an operation
can give (30_encoding.md R55). -/

namespace Sys2Proof

/-- The sign bit of R44. -/
def Flt.sign : Flt → Bool
  | .b64 x => x.msb
  | .b32 x => x.msb

/-- The exponent field of R44. -/
def Flt.exponent : Flt → Nat
  | .b64 x => (x.extractLsb' 52 11).toNat
  | .b32 x => (x.extractLsb' 23 8).toNat

/-- The fraction field of R44. -/
def Flt.fraction : Flt → Nat
  | .b64 x => (x.extractLsb' 0 52).toNat
  | .b32 x => (x.extractLsb' 0 23).toNat

/-- The largest exponent field of a normal number in the format. -/
def Fmt.maxExponent : Fmt → Nat
  | .binary64 => 2046
  | .binary32 => 254

/-- A normal number (R44): the exponent field is neither all zeros nor all ones. -/
abbrev Flt.Normal (v : Flt) : Prop := 1 ≤ v.exponent ∧ v.exponent ≤ v.fmt.maxExponent

/-- `+0`: every bit zero. -/
abbrev Flt.PlusZero (v : Flt) : Prop := v = .b64 0 ∨ v = .b32 0

/-- The real value of a normal number or of zero, by the last column of R44.  No rule gives one to any other
pattern (R81). -/
def Flt.value (v : Flt) : ℚ :=
  if v.exponent = 0 ∧ v.fraction = 0 then 0
  else
    (if v.sign then -1 else 1) * (2 : ℚ) ^ ((v.exponent : ℤ) - Machine.bias v.fmt) *
      (1 + (v.fraction : ℚ) / 2 ^ (Machine.precision v.fmt - 1))

namespace Machine

/-- The real value of a binary value. -/
def Binary.value (x : Binary) : ℚ := (x.signed : ℚ) * 2 ^ x.exp

/-- `t` and `h` are values the two conversions give. -/
def Converted (f : Fmt) (t h : Flt) : Prop := (∃ c, t = cvtT f c) ∧ ∃ c, h = cvtH f c

/-- The transient state is what the steps before this phase leave (R16 to R19). -/
def Phase.Sound (f : Fmt) : Phase → Prop
  | .idle => True
  | .write => True
  | .wait => True
  | .read => True
  | .chkT crc _ => crc = crcInit
  | .cvtT fb tRaw => crc8 fb.tHi fb.tLo = fb.tCk ∧ tRaw = raw fb.tHi fb.tLo
  | .chkH crc fb tTmp =>
      crc = crcInit ∧ crc8 fb.tHi fb.tLo = fb.tCk ∧ tTmp = Machine.cvtT f (raw fb.tHi fb.tLo)
  | .cvtH tTmp _ => ∃ c, tTmp = Machine.cvtT f c
  | .commit tTmp hTmp => Converted f tTmp hTmp

/-- The invariant of the registers: legal parameters, `ADDR` in 1..127 (R11), caches in format `FMT` and, once a
read attempt has succeeded, results of the conversions (R14, R15), sound transient state. -/
structure State.Inv (s : State) : Prop where
  legal : s.cfg.Legal
  addr : s.addr ≠ 0
  tFormat : s.tVal.fmt = s.cfg.fmt
  hFormat : s.hVal.fmt = s.cfg.fmt
  caches : s.haveFlag = true → Converted s.cfg.fmt s.tVal s.hVal
  phase : s.phase.Sound s.cfg.fmt

/-- The pair of the last commit of a history. -/
def lastCommit : List Event → Option (Flt × Flt)
  | [] => none
  | e :: es =>
    match lastCommit es with
    | some p => some p
    | none =>
      match e with
      | .commit t h => some (t, h)
      | _ => none

/-- What a history leaves in `ERR`, from the value `err` before it. -/
def lastError (err : Err) : List Event → Err
  | [] => err
  | .errCleared :: es => lastError .none es
  | .errSet e :: es => lastError e es
  | _ :: es => lastError err es

/-- The registers are what the history says: the caches hold the last commit and `HAVE` says whether there was
one (R13, R14); `ERR` holds the last classification recorded or cleared (R12, R124). -/
structure State.FollowsHistory (s : State) : Prop where
  have_iff : s.haveFlag = (lastCommit s.history).isSome
  caches : ∀ t h, lastCommit s.history = some (t, h) → s.tVal = t ∧ s.hVal = h
  err : s.err = lastError .none s.history

/-- Is the event a response packet? -/
def Event.isResponse : Event → Bool
  | .response _ => true
  | .errCleared => false
  | .write _ _ _ => false
  | .delay _ => false
  | .read _ _ _ => false
  | .errSet _ => false
  | .commit _ _ => false

/-- Is the event a transport call? -/
def Event.isCall : Event → Bool
  | .write _ _ _ => true
  | .read _ _ _ => true
  | .errCleared => false
  | .delay _ => false
  | .errSet _ => false
  | .commit _ _ => false
  | .response _ => false

/-- The place of a phase in the list of R19; `IDLE`, to which an operation returns, is last. -/
def Phase.rank : Phase → Nat
  | .write => 1
  | .wait => 2
  | .read => 3
  | .chkT _ _ => 4
  | .cvtT _ _ => 5
  | .chkH _ _ _ => 6
  | .cvtH _ _ => 7
  | .commit _ _ => 8
  | .idle => 9

/-- A read attempt: `MEAS` or `FRAME` (R9). -/
def isReadAttempt : Instr → Bool
  | .frame _ _ _ _ _ _ => true
  | .meas => true
  | .crc8 _ _ => false
  | .chk _ _ _ => false
  | .cvtt _ _ => false
  | .cvth _ _ => false
  | .gett => false
  | .geth => false
  | .geterr => false
  | .setaddr _ => false
  | .getaddr => false
  | .scan => false

/-- The answers of each operation as typed values (R55), floats in format `f`. -/
def OpAnswers (f : Fmt) (n : OpName) (r : Response) : Prop :=
  match n with
  | .crc8 => ∃ c, r = .checksum c
  | .chk => ∃ m, r = .verdict m
  | .cvtt => ∃ v, r = .value v ∧ v.fmt = f
  | .cvth => ∃ v, r = .value v ∧ v.fmt = f
  | .frame => r = .noResult ∨ ∃ t h, r = .result t h ∧ t.fmt = f ∧ h.fmt = f
  | .meas => r = .noResult ∨ ∃ t h, r = .result t h ∧ t.fmt = f ∧ h.fmt = f
  | .gett => ∃ b v, r = .cached b v ∧ v.fmt = f
  | .geth => ∃ b v, r = .cached b v ∧ v.fmt = f
  | .geterr => ∃ e, r = .classification e
  | .setaddr => r = .ok ∨ r = .refused
  | .getaddr => ∃ a, r = .address a
  | .scan => ∃ found, r = .addresses found ∧ found.length ≤ 127

/-- The two states agree on everything but the contents of the caches. -/
def AgreeButCaches (s s' : State) : Prop := s' = { s with tVal := s'.tVal, hVal := s'.hVal }

end Machine
end Sys2Proof
end

