-- ==== Sys2Proof/Certificates/Slice0/Obligations.lean ====
section
/-! DEFINITION. The statements for the provers.  A statement whose title says "the model's choice" rests on a log entry, not on
a rule of the spec. -/

open Sys2Proof Sys2Proof.Machine

/-! Encoding. -/

/-- R47, R48: every operation's packet, with every operand at every value. -/
def Obligations.PacketsAreAsTabulated : Prop :=
  (∀ hi lo, encode (.crc8 hi lo) = [0x10, hi, lo]) ∧
  (∀ hi lo ck, encode (.chk hi lo ck) = [0x11, hi, lo, ck]) ∧
  (∀ hi lo, encode (.cvtt hi lo) = [0x20, hi, lo]) ∧
  (∀ hi lo, encode (.cvth hi lo) = [0x21, hi, lo]) ∧
  (∀ b0 b1 b2 b3 b4 b5, encode (.frame b0 b1 b2 b3 b4 b5) = [0x30, b0, b1, b2, b3, b4, b5]) ∧
  encode .meas = [0x31] ∧ encode .gett = [0x40] ∧ encode .geth = [0x41] ∧ encode .geterr = [0x42] ∧
  (∀ a, encode (.setaddr a) = [0x43, a]) ∧ encode .getaddr = [0x44] ∧ encode .scan = [0x50]

/-- The packets of 95_test_vectors.md section 2.8, byte for byte. -/
def Obligations.WrittenPacketsDecode : Prop :=
  decode [0x10, 0xBE, 0xEF] = .packet (.crc8 0xBE 0xEF) [] ∧
  decode [0x11, 0xBE, 0xEF, 0x92] = .packet (.chk 0xBE 0xEF 0x92) [] ∧
  decode [0x20, 0xFF, 0xFF] = .packet (.cvtt 0xFF 0xFF) [] ∧
  decode [0x21, 0x00, 0x00] = .packet (.cvth 0x00 0x00) [] ∧
  decode [0x30, 0x65, 0x20, 0x25, 0x82, 0x44, 0x82] = .packet (.frame 0x65 0x20 0x25 0x82 0x44 0x82) [] ∧
  decode [0x31, 0x31] = .packet .meas [0x31] ∧
  decode [0x43, 0x80, 0x44] = .packet (.setaddr 0x80) [0x44] ∧
  decode [0x10, 0x31, 0x31] = .packet (.crc8 0x31 0x31) [] ∧
  decode [0x00] = .reserved 0x00 [] ∧ decode [0x12] = .reserved 0x12 [] ∧
  decode [0x32] = .reserved 0x32 [] ∧ decode [0x45] = .reserved 0x45 [] ∧ decode [0xFF] = .reserved 0xFF [] ∧
  decode [0x10, 0xBE] = .incomplete 0x10

/-- A stream has one reading: each answer of the decoder says exactly which bytes it was given. -/
def Obligations.DecoderReadsExactlyThePacket : Prop :=
  ∀ bs : List Byte,
    (∀ i rest, decode bs = .packet i rest ↔ bs = encode i ++ rest) ∧
    (∀ op rest, decode bs = .reserved op rest ↔ bs = op :: rest ∧ OpName.ofOpcode op = none) ∧
    (∀ op, decode bs = .incomplete op ↔
      ∃ n rest, bs = op :: rest ∧ OpName.ofOpcode op = some n ∧ rest.length < n.format.operandBytes) ∧
    (decode bs = .streamEnd ↔ bs = [])

/-- Every sequence of operations and reserved opcodes, sent as one stream, is read back as it was sent. -/
def Obligations.CommandStreamReadsBack : Prop :=
  ∀ ps : List Packet, (∀ op, Packet.reserved op ∈ ps → OpName.ofOpcode op = none) →
    parseStream (ps.flatMap Packet.bytes).length (ps.flatMap Packet.bytes) = some ps

/-- A stream that is read at all is the concatenation of what was read. -/
def Obligations.ReadStreamIsItsPackets : Prop :=
  ∀ (n : Nat) (bs : List Byte) (ps : List Packet), parseStream n bs = some ps →
    bs = ps.flatMap Packet.bytes ∧ ∀ op, Packet.reserved op ∈ ps → OpName.ofOpcode op = none

/-- R50: which opcodes are reserved, and that the block answers each `REFUSED`, consumes one byte and changes
nothing else. -/
def Obligations.ReservedOpcodesAreRefused : Prop :=
  ∀ op : Byte,
    (OpName.ofOpcode op = none ↔
      op ∉ [0x10, 0x11, 0x20, 0x21, 0x30, 0x31, 0x40, 0x41, 0x42, 0x43, 0x44, (0x50 : Byte)]) ∧
    ∀ (s : State) (rest : List Byte), s.phase = .idle → s.input = op :: rest → OpName.ofOpcode op = none →
      step s = .next { s with input := rest, history := s.history ++ [.response [0xFF]] }

/-- R49: the opcode decides the length, the operation runs when its whole packet is there, and a stream that
ends inside a packet is refused. -/
def Obligations.PacketLengthIsByOpcode : Prop :=
  (∀ form : Format, form.operandBytes = match form with | .z => 0 | .a => 1 | .p => 2 | .s => 3 | .f => 6) ∧
  (∀ i : Instr, OpName.ofOpcode ((encode i).headD 0) = some i.opName ∧
    (encode i).length = 1 + i.opName.format.operandBytes) ∧
  (∀ (s : State) (i : Instr) (rest : List Byte), s.phase = .idle → s.input = encode i ++ rest →
    step s = exec i { s with input := rest }) ∧
  (∀ (s : State) (op : Byte) (n : OpName) (rest : List Byte), s.phase = .idle → s.input = op :: rest →
    OpName.ofOpcode op = some n → rest.length < n.format.operandBytes →
    step s = .refused (.incompletePacket op)) ∧
  decodeTableWord 24 0x10BEEF = some (.crc8 0xBE 0xEF) ∧
  decodeTableWord 56 0x30652025824482 = some (.frame 0x65 0x20 0x25 0x82 0x44 0x82)

/-- A step of an idle instance is `exec` of the decoded operation, after its packet has been consumed. -/
def Obligations.StepRunsDecodedOperation : Prop :=
  ∀ (s : State) (i : Instr) (rest : List Byte), s.phase = .idle → decode s.input = .packet i rest →
    step s = exec i { s with input := rest }

/-- R54: the bytes of every answer. -/
def Obligations.ResponsePacketsAreAsTabulated : Prop :=
  (∀ c, (Response.checksum c).bytes = [0x01, c]) ∧
  (Response.verdict true).bytes = [0x01, 0x01] ∧ (Response.verdict false).bytes = [0x01, 0x00] ∧
  (∀ v, (Response.value v).bytes = [0x01] ++ floatBytes v) ∧
  (∀ t h, (Response.result t h).bytes = [0x01] ++ floatBytes t ++ floatBytes h) ∧
  Response.noResult.bytes = [0x00] ∧
  (∀ v, (Response.cached true v).bytes = [0x01, 0x01] ++ floatBytes v) ∧
  (∀ v, (Response.cached false v).bytes = [0x01, 0x00] ++ floatBytes v) ∧
  (∀ e, (Response.classification e).bytes = [0x01, e.code.setWidth 8]) ∧
  Response.ok.bytes = [0x01] ∧ Response.refused.bytes = [0xFF] ∧
  (∀ a, (Response.address a).bytes = [0x01, a.setWidth 8]) ∧
  (∀ found, (Response.addresses found).bytes =
    [0x01, BitVec.ofNat 8 found.length] ++ found.map fun a => a.setWidth 8) ∧
  (∀ v : Flt, (floatBytes v).length = match v.fmt with | .binary64 => 8 | .binary32 => 4)

/-- R44: a float is sent most significant byte first and no bit is lost. -/
def Obligations.FloatsAreSentBigEndian : Prop :=
  (∀ x : BitVec 64, (floatBytes (.b64 x)).length = 8 ∧
    (floatBytes (.b64 x)).foldl (fun n b => n * 256 + b.toNat) 0 = x.toNat) ∧
  (∀ x : BitVec 32, (floatBytes (.b32 x)).length = 4 ∧
    (floatBytes (.b32 x)).foldl (fun n b => n * 256 + b.toNat) 0 = x.toNat)

/-- R55: every operation completes with one of its typed answers, and the byte form of these is injective. -/
def Obligations.AnswersAreTypedAndRecoverable : Prop :=
  (∀ (i : Instr) (s : State), s.tVal.fmt = s.cfg.fmt → s.hVal.fmt = s.cfg.fmt →
    ∃ (r : Response) (t : State), exec i s = .next t ∧ OpAnswers s.cfg.fmt i.opName r ∧
      t.lastResponse = some r.bytes) ∧
  ∀ (f : Fmt) (n : OpName) (r r' : Response), OpAnswers f n r → OpAnswers f n r' → r.bytes = r'.bytes → r = r'

/-! Checksum. -/

/-- R61, R62 as the spec writes them: shifts of unbounded integers, masked to 8 bits. -/
def Obligations.CrcIsTheMaskedShiftLoop : Prop :=
  (∀ c : Byte, (crcStep c).toNat = Nat.repeat
    (fun n => if n.testBit 7 then ((n <<< 1) ^^^ 0x31) &&& 0xFF else (n <<< 1) &&& 0xFF) 8 c.toNat) ∧
  ∀ h l : Byte, crc8 h l = crcStep (crcStep (0xFF ^^^ h) ^^^ l)

/-- The table of `crc_step` in R66, which the spec marks as derived from R61, and `crc8` by two look-ups in it. -/
def Obligations.CrcIsTheTable : Prop :=
  let tab : List Byte :=
    [0x00, 0x31, 0x62, 0x53, 0xC4, 0xF5, 0xA6, 0x97, 0xB9, 0x88, 0xDB, 0xEA, 0x7D, 0x4C, 0x1F, 0x2E] ++
    [0x43, 0x72, 0x21, 0x10, 0x87, 0xB6, 0xE5, 0xD4, 0xFA, 0xCB, 0x98, 0xA9, 0x3E, 0x0F, 0x5C, 0x6D] ++
    [0x86, 0xB7, 0xE4, 0xD5, 0x42, 0x73, 0x20, 0x11, 0x3F, 0x0E, 0x5D, 0x6C, 0xFB, 0xCA, 0x99, 0xA8] ++
    [0xC5, 0xF4, 0xA7, 0x96, 0x01, 0x30, 0x63, 0x52, 0x7C, 0x4D, 0x1E, 0x2F, 0xB8, 0x89, 0xDA, 0xEB] ++
    [0x3D, 0x0C, 0x5F, 0x6E, 0xF9, 0xC8, 0x9B, 0xAA, 0x84, 0xB5, 0xE6, 0xD7, 0x40, 0x71, 0x22, 0x13] ++
    [0x7E, 0x4F, 0x1C, 0x2D, 0xBA, 0x8B, 0xD8, 0xE9, 0xC7, 0xF6, 0xA5, 0x94, 0x03, 0x32, 0x61, 0x50] ++
    [0xBB, 0x8A, 0xD9, 0xE8, 0x7F, 0x4E, 0x1D, 0x2C, 0x02, 0x33, 0x60, 0x51, 0xC6, 0xF7, 0xA4, 0x95] ++
    [0xF8, 0xC9, 0x9A, 0xAB, 0x3C, 0x0D, 0x5E, 0x6F, 0x41, 0x70, 0x23, 0x12, 0x85, 0xB4, 0xE7, 0xD6] ++
    [0x7A, 0x4B, 0x18, 0x29, 0xBE, 0x8F, 0xDC, 0xED, 0xC3, 0xF2, 0xA1, 0x90, 0x07, 0x36, 0x65, 0x54] ++
    [0x39, 0x08, 0x5B, 0x6A, 0xFD, 0xCC, 0x9F, 0xAE, 0x80, 0xB1, 0xE2, 0xD3, 0x44, 0x75, 0x26, 0x17] ++
    [0xFC, 0xCD, 0x9E, 0xAF, 0x38, 0x09, 0x5A, 0x6B, 0x45, 0x74, 0x27, 0x16, 0x81, 0xB0, 0xE3, 0xD2] ++
    [0xBF, 0x8E, 0xDD, 0xEC, 0x7B, 0x4A, 0x19, 0x28, 0x06, 0x37, 0x64, 0x55, 0xC2, 0xF3, 0xA0, 0x91] ++
    [0x47, 0x76, 0x25, 0x14, 0x83, 0xB2, 0xE1, 0xD0, 0xFE, 0xCF, 0x9C, 0xAD, 0x3A, 0x0B, 0x58, 0x69] ++
    [0x04, 0x35, 0x66, 0x57, 0xC0, 0xF1, 0xA2, 0x93, 0xBD, 0x8C, 0xDF, 0xEE, 0x79, 0x48, 0x1B, 0x2A] ++
    [0xC1, 0xF0, 0xA3, 0x92, 0x05, 0x34, 0x67, 0x56, 0x78, 0x49, 0x1A, 0x2B, 0xBC, 0x8D, 0xDE, 0xEF] ++
    [0x82, 0xB3, 0xE0, 0xD1, 0x46, 0x77, 0x24, 0x15, 0x3B, 0x0A, 0x59, 0x68, 0xFF, 0xCE, 0x9D, 0xAC]
  (∀ x : Byte, tab[x.toNat]? = some (crcStep x)) ∧
  ∀ h l : Byte, ∃ mid, tab[(0xFF ^^^ h).toNat]? = some mid ∧ tab[(mid ^^^ l).toNat]? = some (crc8 h l)

/-- Items 1, 2, 4 and 5 of the facts in 41_checksum.md section 4, which the spec marks as derived. -/
def Obligations.CrcIsAffineAndBijective : Prop :=
  Function.Bijective crcStep ∧
  (∀ a b : Byte, crcStep (a ^^^ b) = crcStep a ^^^ crcStep b) ∧
  (∀ h : Byte, Function.Bijective fun l => crc8 h l) ∧
  (∀ l : Byte, Function.Bijective fun h => crc8 h l) ∧
  (∀ h1 l1 h2 l2 : Byte, crc8 (h1 ^^^ h2) (l1 ^^^ l2) = crc8 h1 l1 ^^^ crc8 h2 l2 ^^^ 0x81) ∧
  ∀ h l ck : Byte, crcStep (crc8 h l ^^^ ck) = 0 ↔ ck = crc8 h l

/-- 95_test_vectors.md section 2.1: one flipped bit in any of the three bytes turns a match into a mismatch. -/
def Obligations.SingleBitErrorsAreDetected : Prop :=
  ∀ (h l : Byte) (k : Nat), k < 8 →
    checkMatches crcInit h l (crc8 h l) = true ∧
    checkMatches crcInit (h ^^^ BitVec.twoPow 8 k) l (crc8 h l) = false ∧
    checkMatches crcInit h (l ^^^ BitVec.twoPow 8 k) (crc8 h l) = false ∧
    checkMatches crcInit h l (crc8 h l ^^^ BitVec.twoPow 8 k) = false

/-- The response and the frame of `CRC8` (R63), with the rule's corner cases and worked example.  That the all-zero
and the all-ones sub-frames are invalid R63 marks as derived from R62. -/
def Obligations.Crc8AnswersTheChecksum : Prop :=
  (∀ (hi lo : Byte) (s : State),
    encode (.crc8 hi lo) = [0x10, hi, lo] ∧
    exec (.crc8 hi lo) s = .next { s with history := s.history ++ [.response [0x01, crc8 hi lo]] }) ∧
  crc8 0x00 0x00 = 0x81 ∧ crc8 0xFF 0x00 = 0x00 ∧ crc8 0xFF 0xFF = 0xAC ∧
  crcStep 0x41 = 0x0C ∧ crcStep 0xE3 = 0x92 ∧ crc8 0xBE 0xEF = 0x92

/-- The response and the frame of `CHK` (R64), with the rule's corner cases.  That exactly one check byte is
answered with a match R64 marks as derived from R62. -/
def Obligations.ChkAnswersTheVerdict : Prop :=
  (∀ (hi lo ck : Byte) (s : State),
    encode (.chk hi lo ck) = [0x11, hi, lo, ck] ∧
    exec (.chk hi lo ck) s = .next { s with
      history := s.history ++ [.response [0x01, if crc8 hi lo = ck then 0x01 else 0x00]] }) ∧
  (∀ (hi lo : Byte) (s : State), ∃! ck,
    ∃ t : State, exec (.chk hi lo ck) s = .next t ∧ t.lastResponse = some [0x01, 0x01]) ∧
  crc8 0x00 0x00 ≠ 0x00 ∧ crc8 0xFF 0x00 = 0x00 ∧ crc8 0x65 0x20 = 0x25 ∧ crc8 0x65 0x20 ≠ 0x5C

/-! Conversion. -/

/-- R70. -/
def Obligations.RawCountIsBigEndianUnsigned : Prop :=
  ∀ h l : Byte, (raw h l).toNat = 256 * h.toNat + l.toNat ∧ (raw h l).toNat ≤ 65535 ∧
    (raw h l).toNat = (h.toNat <<< 8) ||| l.toNat

/-- R74: the result is `sign(x) * u * m` for the integer `m` nearest to `|x| / u`, a tie to the even one, and
`+0` for zero. -/
def Obligations.RoundingIsToNearestEven : Prop :=
  (∀ (f : Fmt) (den : Nat), rn f 0 den = ⟨false, 0, 0⟩) ∧
  ∀ (f : Fmt) (num : ℤ) (den : Nat), num ≠ 0 → 0 < den →
    ∃ (e : ℤ) (m : Nat),
      let x : ℚ := (num : ℚ) / den
      let u : ℚ := 2 ^ (e - precision f + 1)
      (2 : ℚ) ^ e ≤ |x| ∧ |x| < 2 ^ (e + 1) ∧
      (rn f num den).value = (if num < 0 then -1 else 1) * u * m ∧
      |(|x| / u - m)| ≤ 1 / 2 ∧ (|(|x| / u - m)| = 1 / 2 → Even m)

/-- The encoding of R44 carries the value of a rounded result, for magnitudes far beyond those that occur. -/
def Obligations.EncodingCarriesTheValue : Prop :=
  ∀ (f : Fmt) (num : ℤ) (den : Nat), num ≠ 0 → 0 < den →
    (2 : ℚ) ^ (-100 : ℤ) ≤ |(num : ℚ) / den| → |(num : ℚ) / den| ≤ 2 ^ (100 : ℤ) →
    ((rn f num den).encode f).fmt = f ∧ ((rn f num den).encode f).Normal ∧
    ((rn f num den).encode f).value = (rn f num den).value

/-- R76: the quotient rounded once, then the difference from 45, taken exactly, rounded once. -/
def Obligations.TemperatureRoundsTwice : Prop :=
  ∀ (f : Fmt) (c : Count), ∃ (num : ℤ) (den : Nat),
    0 < den ∧ (num : ℚ) / den = (rn f (c.toNat * 175 : Nat) 65535).value - 45 ∧
    cvtT f c = (rn f num den).encode f

/-- R78: the quotient rounded once. -/
def Obligations.HumidityRoundsOnce : Prop :=
  ∀ (f : Fmt) (c : Count), cvtH f c = (rn f (c.toNat * 100 : Nat) 65535).encode f ∧
    (cvtH f c).value = (rn f (c.toNat * 100 : Nat) 65535).value

/-- R81, in part the spec's own derivation: no result is a NaN, an infinity or a subnormal; zero is `+0` and only `cvt_h(0)`. -/
def Obligations.ConversionsGiveNormalNumbersOrPlusZero : Prop :=
  ∀ (f : Fmt) (c : Count),
    (cvtT f c).fmt = f ∧ (cvtT f c).Normal ∧ (cvtH f c).fmt = f ∧
    (c ≠ 0 → (cvtH f c).Normal) ∧ (c = 0 → (cvtH f c).PlusZero)

/-- Items 1 and 2 of R82, which the spec marks as derived: both conversions are strictly increasing, with the end
points of R77 and R79. -/
def Obligations.ConversionsStrictlyIncrease : Prop :=
  ∀ f : Fmt,
    (∀ c d : Count, c.toNat < d.toNat →
      (cvtT f c).value < (cvtT f d).value ∧ (cvtH f c).value < (cvtH f d).value) ∧
    (cvtT f 0).value = -45 ∧ (cvtT f 65535).value = 130 ∧ (cvtH f 0).value = 0 ∧ (cvtH f 65535).value = 100

/-- Corner cases of R77 and R79, which the spec marks as derived: the counts whose result is the exact real value. -/
def Obligations.ConversionsAreExactAtSixCounts : Prop :=
  ∀ (f : Fmt) (c : Count),
    ((cvtT f c).value = 175 * (c.toNat : ℚ) / 65535 - 45 ↔ c.toNat ∈ [0, 13107, 26214, 39321, 52428, 65535]) ∧
    ((cvtH f c).value = 100 * (c.toNat : ℚ) / 65535 ↔ c.toNat ∈ [0, 13107, 26214, 39321, 52428, 65535])

/-- `CVTT` (R77): what it answers, and that it changes nothing else. -/
def Obligations.CvttAnswersTheTemperature : Prop :=
  (∀ (hi lo : Byte) (s : State),
    encode (.cvtt hi lo) = [0x20, hi, lo] ∧
    exec (.cvtt hi lo) s = .next { s with
      history := s.history ++ [.response (0x01 :: floatBytes (cvtT s.cfg.fmt (raw hi lo)))] }) ∧
  cvtT .binary64 0 = .b64 0xC046800000000000 ∧ cvtT .binary32 0 = .b32 0xC2340000 ∧
  cvtT .binary64 65535 = .b64 0x4060400000000000 ∧ cvtT .binary32 65535 = .b32 0x43020000 ∧
  cvtT .binary64 25888 = .b64 0x4038212521252124 ∧ cvtT .binary32 25888 = .b32 0x41C10928

/-- `CVTH` (R79): what it answers, and that it changes nothing else. -/
def Obligations.CvthAnswersTheHumidity : Prop :=
  (∀ (hi lo : Byte) (s : State),
    encode (.cvth hi lo) = [0x21, hi, lo] ∧
    exec (.cvth hi lo) s = .next { s with
      history := s.history ++ [.response (0x01 :: floatBytes (cvtH s.cfg.fmt (raw hi lo)))] }) ∧
  cvtH .binary64 0 = .b64 0 ∧ cvtH .binary32 0 = .b32 0 ∧
  cvtH .binary64 65535 = .b64 0x4059000000000000 ∧ cvtH .binary32 65535 = .b32 0x42C80000 ∧
  cvtH .binary64 33348 = .b64 0x4049716171617161 ∧ cvtH .binary32 33348 = .b32 0x424B8B0C

/-! Measurement. -/

/-- R121: what recording an error does.  Beside it, of R124, what clearing one does, and that each read attempt
clears unconditionally: it ends the same whatever `ERR` held before it. -/
def Obligations.RaiseRecordsAndEndsTheOperation : Prop :=
  ∀ (s : State) (e : Err),
    s.raise e = { s with
      err := e, phase := .idle, history := s.history ++ [.errSet e, .response [0x00]] } ∧
    s.clearErr = { s with err := .none, history := s.history ++ [.errCleared] } ∧
    exec .meas { s with err := e } = exec .meas s ∧
    ∀ b0 b1 b2 b3 b4 b5 : Byte,
      exec (.frame b0 b1 b2 b3 b4 b5) { s with err := e } = exec (.frame b0 b1 b2 b3 b4 b5) s

/-- `FRAME` (R86, R87): the three outcomes, each with the whole next state. -/
def Obligations.FrameValidatesConvertsCommits : Prop :=
  ∀ (b0 b1 b2 b3 b4 b5 : Byte) (s : State),
    let t := cvtT s.cfg.fmt (raw b0 b1)
    let h := cvtH s.cfg.fmt (raw b3 b4)
    (crc8 b0 b1 ≠ b2 →
      exec (.frame b0 b1 b2 b3 b4 b5) s = .next { s with
        err := .checksumFailedTemperature, phase := .idle,
        history := s.history ++ [.errCleared, .errSet .checksumFailedTemperature, .response [0x00]] }) ∧
    (crc8 b0 b1 = b2 → crc8 b3 b4 ≠ b5 →
      exec (.frame b0 b1 b2 b3 b4 b5) s = .next { s with
        err := .checksumFailedHumidity, phase := .idle,
        history := s.history ++ [.errCleared, .errSet .checksumFailedHumidity, .response [0x00]] }) ∧
    (crc8 b0 b1 = b2 → crc8 b3 b4 = b5 →
      exec (.frame b0 b1 b2 b3 b4 b5) s = .next { s with
        err := .none, phase := .idle, tVal := t, hVal := h, haveFlag := true,
        history := s.history ++
          [.errCleared, .commit t h, .response (0x01 :: (floatBytes t ++ floatBytes h))] })

/-- `MEAS` (R88, R91, R117 to R120, R123): the five outcomes, each with the whole next state and the events in
order.  `r` is the transport's answer to the call after the command write. -/
def Obligations.MeasRunsOneMeasurementCycle : Prop :=
  encode .meas = [0x31] ∧
  ∀ s : State,
    let r := s.readScript.head?.getD (Config.freeReadAnswer s.cfg.transport (s.calls + 1))
    let written : List Event := [.errCleared, .write s.addr [0x2C, 0x06] s.nextWrite]
    let readEvents : List Event := written ++ [.delay s.cfg.tConv, .read s.addr 6 r]
    (s.nextWrite = .fail →
      exec .meas s = .next { s with
        err := .transportWriteFailed, phase := .idle,
        writeScript := s.writeScript.tail, calls := s.calls + 1,
        history := s.history ++ written ++ [.errSet .transportWriteFailed, .response [0x00]] }) ∧
    (s.nextWrite = .ok → (r = .fail ∨ ∃ bs short, r = .bytes bs short ∧ bs.length < 6) →
      exec .meas s = .next { s with
        err := .transportReadFailed, phase := .idle,
        writeScript := s.writeScript.tail, readScript := s.readScript.tail, calls := s.calls + 2,
        history := s.history ++ readEvents ++ [.errSet .transportReadFailed, .response [0x00]] }) ∧
    ∀ (b0 b1 b2 b3 b4 b5 : Byte) (short : [b0, b1, b2, b3, b4, b5].length ≤ 6),
      s.nextWrite = .ok → r = .bytes [b0, b1, b2, b3, b4, b5] short →
      let t := cvtT s.cfg.fmt (raw b0 b1)
      let h := cvtH s.cfg.fmt (raw b3 b4)
      (crc8 b0 b1 ≠ b2 →
        exec .meas s = .next { s with
          err := .checksumFailedTemperature, phase := .idle,
          writeScript := s.writeScript.tail, readScript := s.readScript.tail, calls := s.calls + 2,
          history := s.history ++ readEvents ++ [.errSet .checksumFailedTemperature, .response [0x00]] }) ∧
      (crc8 b0 b1 = b2 → crc8 b3 b4 ≠ b5 →
        exec .meas s = .next { s with
          err := .checksumFailedHumidity, phase := .idle,
          writeScript := s.writeScript.tail, readScript := s.readScript.tail, calls := s.calls + 2,
          history := s.history ++ readEvents ++ [.errSet .checksumFailedHumidity, .response [0x00]] }) ∧
      (crc8 b0 b1 = b2 → crc8 b3 b4 = b5 →
        exec .meas s = .next { s with
          err := .none, phase := .idle, tVal := t, hVal := h, haveFlag := true,
          writeScript := s.writeScript.tail, readScript := s.readScript.tail, calls := s.calls + 2,
          history := s.history ++ readEvents ++
            [.commit t h, .response (0x01 :: (floatBytes t ++ floatBytes h))] })

/-- R87, "Equivalence", which the spec marks as derived: `FRAME` against a `MEAS` whose write is answered `ok` and whose read is answered with
the same six bytes. -/
def Obligations.FrameEqualsMeasOnThatFrame : Prop :=
  ∀ (b0 b1 b2 b3 b4 b5 : Byte) (short : [b0, b1, b2, b3, b4, b5].length ≤ 6) (s m : State),
    s.nextWrite = .ok →
    s.readScript.head?.getD (Config.freeReadAnswer s.cfg.transport (s.calls + 1)) =
      .bytes [b0, b1, b2, b3, b4, b5] short →
    exec .meas s = .next m →
    ∃ t, exec (.frame b0 b1 b2 b3 b4 b5) s = .next t ∧
      t.err = m.err ∧ t.tVal = m.tVal ∧ t.hVal = m.hVal ∧ t.haveFlag = m.haveFlag ∧ t.addr = m.addr ∧
      t.lastResponse = m.lastResponse ∧ t.calls = s.calls

/-- R90, R122: a read attempt commits both values and `HAVE` together, or leaves them and everything but `ERR`
and the transport's and the host's side as it was. -/
def Obligations.ReadAttemptCommitsAllOrNothing : Prop :=
  ∀ (i : Instr) (s t : State), isReadAttempt i = true → exec i s = .next t →
    t.cfg = s.cfg ∧ t.addr = s.addr ∧ t.input = s.input ∧ t.phase = .idle ∧
    (t.err ≠ .none → t.tVal = s.tVal ∧ t.hVal = s.hVal ∧ t.haveFlag = s.haveFlag) ∧
    (t.err = .none → t.haveFlag = true ∧ ∃ hi lo hi' lo' : Byte,
      t.tVal = cvtT s.cfg.fmt (raw hi lo) ∧ t.hVal = cvtH s.cfg.fmt (raw hi' lo') ∧
      lastCommit t.history = some (t.tVal, t.hVal))

/-- R21, `present`: a read attempt answers with a result exactly when `ERR` is `NONE` after it, and `NORESULT`
otherwise; on success the result is the pair just written (R92). -/
def Obligations.ResultPresentIffNoError : Prop :=
  ∀ (i : Instr) (s t : State), isReadAttempt i = true → exec i s = .next t →
    ∃ r : Response, t.lastResponse = some r.bytes ∧ (present r = true ↔ t.err = .none) ∧
      (t.err = .none → r = .result t.tVal t.hVal) ∧ (t.err ≠ .none → r = .noResult)

/-- R92: after a successful read attempt, `GETT` and `GETH` answer the bytes the result carried. -/
def Obligations.AccessorsReturnTheResult : Prop :=
  ∀ (i : Instr) (s t : State), isReadAttempt i = true → exec i s = .next t → t.err = .none →
    ∃ u v : State, exec .gett t = .next u ∧ exec .geth u = .next v ∧
      t.lastResponse = some (0x01 :: (floatBytes t.tVal ++ floatBytes t.hVal)) ∧
      u.lastResponse = some (0x01 :: 0x01 :: floatBytes t.tVal) ∧
      v.lastResponse = some (0x01 :: 0x01 :: floatBytes t.hVal)

/-! Access. -/

/-- `GETT`, `GETH`, `GETERR` (R100 to R102): the answer, and that nothing else changes.  While `HAVE` is 0 the
float bytes are whatever the register holds, which no rule says. -/
def Obligations.AccessorsAnswerTheRegisters : Prop :=
  ∀ s : State,
    encode .gett = [0x40] ∧ encode .geth = [0x41] ∧ encode .geterr = [0x42] ∧
    exec .gett s = .next { s with
      history := s.history ++ [.response (0x01 :: (if s.haveFlag then 0x01 else 0x00) :: floatBytes s.tVal)] } ∧
    exec .geth s = .next { s with
      history := s.history ++ [.response (0x01 :: (if s.haveFlag then 0x01 else 0x00) :: floatBytes s.hVal)] } ∧
    exec .geterr s = .next { s with
      history := s.history ++ [.response [0x01, match s.err with
        | .none => 0x00
        | .transportWriteFailed => 0x01
        | .transportReadFailed => 0x02
        | .checksumFailedTemperature => 0x03
        | .checksumFailedHumidity => 0x04]] }

/-- `SETADDR` (R103, R51). -/
def Obligations.SetaddrSetsOnlyLegalAddresses : Prop :=
  ∀ (a : Byte) (s : State),
    encode (.setaddr a) = [0x43, a] ∧
    (a = 0x00 ∨ 0x80 ≤ a.toNat →
      exec (.setaddr a) s = .next { s with history := s.history ++ [.response [0xFF]] }) ∧
    (1 ≤ a.toNat → a.toNat ≤ 0x7F →
      exec (.setaddr a) s = .next { s with
        addr := a.extractLsb' 0 7, history := s.history ++ [.response [0x01]] } ∧
      (a.extractLsb' 0 7).toNat = a.toNat)

/-- `GETADDR` (R104): the address with a zero bit above it; in 1..127 wherever R11 holds. -/
def Obligations.GetaddrAnswersTheAddress : Prop :=
  ∀ s : State,
    encode .getaddr = [0x44] ∧
    exec .getaddr s = .next { s with history := s.history ++ [.response [0x01, 0#1 ++ s.addr]] } ∧
    (s.addr ≠ 0 → 1 ≤ (0#1 ++ s.addr : Byte).toNat) ∧ (0#1 ++ s.addr : Byte).toNat ≤ 127

/-- R105: the message is empty exactly when `ERR` is `NONE`. -/
def Obligations.MessageIsEmptyIffNoError : Prop :=
  ∀ e : Err, message e = "" ↔ e = .none

/-! Peripheral. -/

/-- `SCAN` (R110, R111): 127 probe writes, one to each address, ascending, whatever the answers; the answer
lists the addresses that acknowledged; nothing else of the block changes. -/
def Obligations.ScanProbesEveryAddressOnce : Prop :=
  encode .scan = [0x50] ∧
  ∀ s : State,
    let answer : Nat → WriteAnswer := fun k =>
      s.writeScript[k]?.getD (Config.freeWriteAnswer s.cfg.transport (s.calls + k))
    let found : List Byte :=
      ((List.range 127).filter fun k => answer k == .ok).map fun k => BitVec.ofNat 8 (k + 1)
    exec .scan s = .next { s with
      writeScript := s.writeScript.drop 127, calls := s.calls + 127,
      history := s.history ++
        (List.range 127).map (fun k => Event.write (BitVec.ofNat 7 (k + 1)) [s.cfg.probeByte] (answer k)) ++
        [.response (0x01 :: BitVec.ofNat 8 found.length :: found)] } ∧
    found.Pairwise (fun a b => a.toNat < b.toNat) ∧ found.length ≤ 127

/-! The whole machine. -/

/-- R23, R136: what reset leaves, for every legal set of parameters; `T_VAL` and `H_VAL` may hold any bits of
their format.  The last line names the model's own parameter choice (log 2). -/
def Obligations.ResetLeavesTheTabulatedValues : Prop :=
  (∀ (c : Config) (t h : BitVec 64), c.Legal →
    let s := State.create c t h
    s.cfg = c ∧ s.addr = c.addrInit ∧ s.err = .none ∧ s.haveFlag = false ∧ s.phase = .idle ∧
    s.calls = 0 ∧ s.history = [] ∧ s.tVal.fmt = c.fmt ∧ s.hVal.fmt = c.fmt) ∧
  (∀ (c : Config) (v w : Flt), v.fmt = c.fmt → w.fmt = c.fmt →
    ∃ t h, (State.create c t h).tVal = v ∧ (State.create c t h).hVal = w) ∧
  ∃ (c : Config) (t h : BitVec 64), c.Legal ∧ State.reset = State.create c t h

/-- The invariant of the registers holds of every newly created instance with legal parameters. -/
def Obligations.RegisterInvariantAtReset : Prop :=
  (∀ (c : Config) (t h : BitVec 64), c.Legal → (State.create c t h).Inv) ∧ State.reset.Inv

/-- Every step, of an idle instance or of a busy one, keeps the invariant of the registers (R11, R14, R15). -/
def Obligations.EveryStepKeepsTheRegisterInvariant : Prop :=
  ∀ s t : State, s.Inv → step s = .next t → t.Inv

/-- A newly created instance agrees with its empty history. -/
def Obligations.HistoryAgreementAtReset : Prop :=
  ∀ (c : Config) (t h : BitVec 64), (State.create c t h).FollowsHistory

/-- Every step keeps the agreement of `HAVE`, `T_VAL`, `H_VAL` and `ERR` with the history: the caches hold the
last commit, whatever failed after it (R13, R14), `ERR` the last record or clearing (R124). -/
def Obligations.EveryStepKeepsHistoryAgreement : Prop :=
  ∀ s t : State, s.FollowsHistory → step s = .next t → t.FollowsHistory

/-- In a state with the invariant the caches, once written, are within the range of R14 and R15. -/
def Obligations.CachedValuesAreInRange : Prop :=
  ∀ s : State, s.Inv → s.haveFlag = true →
    -45 ≤ s.tVal.value ∧ s.tVal.value ≤ 130 ∧ 0 ≤ s.hVal.value ∧ s.hVal.value ≤ 100

/-- R106, R24, R11: who may write what, over all operations. -/
def Obligations.OnlyTheNamedOperationsWriteRegisters : Prop :=
  ∀ (i : Instr) (s t : State), exec i s = .next t →
    t.cfg = s.cfg ∧ t.input = s.input ∧
    (t.addr ≠ s.addr → ∃ a, i = .setaddr a ∧ addressByteLegal a = true) ∧
    (isReadAttempt i = false →
      t.err = s.err ∧ t.haveFlag = s.haveFlag ∧ t.tVal = s.tVal ∧ t.hVal = s.hVal ∧ t.phase = s.phase)

/-- R31: the pure operations and the accessors leave the state as it was but for the response sent, and give
the same response when issued again. -/
def Obligations.PureOperationsAreIdempotent : Prop :=
  ∀ (i : Instr) (s : State),
    i.opName ∈ [OpName.crc8, .chk, .cvtt, .cvth, .gett, .geth, .geterr, .getaddr] →
    ∃ r : Response,
      exec i s = .next { s with history := s.history ++ [.response r.bytes] } ∧
      ∀ es : List Event, exec i { s with history := es } = .next { s with history := es ++ [.response r.bytes] }

/-- R53: an idle instance that takes a step consumes one whole packet, an operation's or a reserved opcode, and sends exactly one response, last,
with one of the three status bytes; `NORESULT` only for a read attempt, and a refused packet changes no state. -/
def Obligations.OneResponsePerPacket : Prop :=
  ∀ s t : State, s.phase = .idle → step s = .next t →
    t.phase = .idle ∧
    ∃ (p : Packet) (events : List Event) (r : Response),
      s.input = p.bytes ++ t.input ∧ (∀ op, p = .reserved op → OpName.ofOpcode op = none) ∧
      t.history = s.history ++ events ++ [.response r.bytes] ∧
      (∀ e ∈ events, e.isResponse = false) ∧
      (r.bytes.head? = some 0x01 ∨ r.bytes = [0x00] ∨ r.bytes = [0xFF]) ∧
      (r.bytes = [0x00] → ∃ i, p = .operation i ∧ isReadAttempt i = true) ∧
      (r.bytes = [0xFF] →
        ((∃ op, p = .reserved op) ∨ ∃ a, p = .operation (.setaddr a) ∧ addressByteLegal a = false) ∧
        t = { s with input := t.input, history := s.history ++ [.response [0xFF]] })

/-- 95_test_vectors.md section 3, item 7: how many transport calls each operation makes; each call is an event. -/
def Obligations.TransportCallsPerOperation : Prop :=
  ∀ (i : Instr) (s t : State), exec i s = .next t →
    ∃ events, t.history = s.history ++ events ∧ t.calls = s.calls + (events.filter Event.isCall).length ∧
      (events.filter Event.isCall).length =
        match i with
        | .meas => (match s.nextWrite with | .ok => 2 | .fail => 1)
        | .scan => 127
        | _ => 0

/-- R126: no fault and no stuck state; the only refusals are at the end of the command stream. -/
def Obligations.StepStopsOnlyAtTheEndOfTheStream : Prop :=
  ∀ s : State,
    (∀ f, step s ≠ .fault f) ∧
    (∀ r, step s = .refused r ↔
      s.phase = .idle ∧ ((s.input = [] ∧ r = .streamEnded) ∨
        ∃ op n rest, s.input = op :: rest ∧ OpName.ofOpcode op = some n ∧
          rest.length < n.format.operandBytes ∧ r = .incompletePacket op))

/-- R19, R126: a busy instance only goes forward through the phases, and after at most eight steps the operation
has ended with a response. -/
def Obligations.BusyOperationGoesForwardAndEnds : Prop :=
  ∀ s : State, s.phase ≠ .idle →
    (∃ t, step s = .next t ∧ s.phase.rank < t.phase.rank) ∧
    ∃ k bs, k ≤ 8 ∧ Sys2Proof.core.run k s = .next s.finish ∧ s.finish.phase = .idle ∧
      s.finish.lastResponse = some bs

/-- `MEAS` and `FRAME` as one step give what the steps of their phases give one after another (R19, R91). -/
def Obligations.AtomicAttemptEqualsItsPhases : Prop :=
  (∀ s : State, ∃ k, 1 ≤ k ∧ k ≤ 8 ∧ Sys2Proof.core.run k s.beginMeas = exec .meas s ∧
    ∀ j < k, ∃ u : State, Sys2Proof.core.run j s.beginMeas = .next u ∧ u.phase ≠ .idle) ∧
  ∀ (b0 b1 b2 b3 b4 b5 : Byte) (s : State), ∃ k, 1 ≤ k ∧ k ≤ 5 ∧
    Sys2Proof.core.run k (s.beginFrame ⟨b0, b1, b2, b3, b4, b5⟩) = exec (.frame b0 b1 b2 b3 b4 b5) s ∧
    ∀ j < k, ∃ u : State,
      Sys2Proof.core.run j (s.beginFrame ⟨b0, b1, b2, b3, b4, b5⟩) = .next u ∧ u.phase ≠ .idle

/-- R19: the event-sequence reading gives the same as the one-step reading, after as many phases as it needs. -/
def Obligations.PhaseStepsReachTheStep : Prop :=
  ∀ s : State, s.phase = .idle → ∃ k, 1 ≤ k ∧ k ≤ 9 ∧ phaseRun k s = step s ∧
    ∀ j, 1 ≤ j → j < k → ∃ u : State, phaseRun j s = .next u ∧ u.phase ≠ .idle

/-- In the event-sequence reading too every step keeps both invariants; while the instance is busy neither `ADDR`
nor the command stream changes (R11, R145), and the caches only when the operation ends without an error. -/
def Obligations.EveryPhaseStepKeepsTheInvariants : Prop :=
  ∀ s t : State, phaseStep s = .next t →
    (s.Inv → t.Inv) ∧ (s.FollowsHistory → t.FollowsHistory) ∧
    (s.phase ≠ .idle → t.addr = s.addr ∧ t.input = s.input ∧ t.cfg = s.cfg ∧
      ((∃ x y, s.phase = .commit x y ∧ t.err = s.err) ∨
        t.tVal = s.tVal ∧ t.hVal = s.hVal ∧ t.haveFlag = s.haveFlag))

/-- U1: before the first success the contents of the caches reach nothing but the float bytes of `GETT` and
`GETH`; a first success leaves no trace of them.  For `MEAS` and `SCAN` with an exhausted script this rests on the
model's choice of log 3: two runs with the same transport and as many calls get the same free answers. -/
def Obligations.UnwrittenCachesAreUnobservable : Prop :=
  ∀ (i : Instr) (s s' : State), AgreeButCaches s s' → s.haveFlag = false → i ≠ .gett → i ≠ .geth →
    ∃ t t' : State, exec i s = .next t ∧ exec i s' = .next t' ∧ AgreeButCaches t t' ∧
      (t.haveFlag = true → t = t')

/-- R137, R140: the host has no move towards a busy instance, and reset has no meaning there; an idle one takes
the bytes, or becomes a new instance that owes nothing to the old one. -/
def Obligations.HostMovesOnlyTowardsIdleInstances : Prop :=
  ∀ (s : State) (bytes : List Byte) (c : Config) (t h : BitVec 64),
    (s.phase ≠ .idle → hostSend bytes s = .refused .hostMoveWhileBusy ∧
      hostReset c t h s = .refused .resetWhileBusy) ∧
    (s.phase = .idle → hostSend bytes s = .next { s with input := s.input ++ bytes } ∧
      hostReset c t h s = .next (State.create c t h))
end

