-- ==== Sys2Proof/Laws/Decode.lean ====
section
/-! SUPPORT. The opcode map is unambiguous, and what each operand form takes. -/

namespace Sys2Proof

theorem opcodes_distinct : (OpName.all.map OpName.opcode).Nodup := by decide

@[simp] theorem ofOpcode_opcode (n : OpName) : OpName.ofOpcode n.opcode = some n := by cases n <;> rfl

theorem opcode_of_ofOpcode (op : Byte) (n : OpName) (h : OpName.ofOpcode op = some n) : n.opcode = op := by
  have := List.find?_some h
  simpa using this

theorem takeA_packet (op : Byte) (build : Byte → Instr) (bs : List Byte) (i : Instr) (rest : List Byte) :
    takeA op build bs = .packet i rest ↔ ∃ a, bs = a :: rest ∧ i = build a := by
  cases bs <;> simp [takeA, eq_comm, and_comm]

theorem takeP_packet (op : Byte) (build : Byte → Byte → Instr) (bs : List Byte) (i : Instr) (rest : List Byte) :
    takeP op build bs = .packet i rest ↔ ∃ a b, bs = a :: b :: rest ∧ i = build a b := by
  match bs with
  | [] | [_] => simp [takeP]
  | a :: b :: tl => simp [takeP, eq_comm, and_comm]

theorem takeS_packet (op : Byte) (build : Byte → Byte → Byte → Instr) (bs : List Byte) (i : Instr)
    (rest : List Byte) :
    takeS op build bs = .packet i rest ↔ ∃ a b c, bs = a :: b :: c :: rest ∧ i = build a b c := by
  match bs with
  | [] | [_] | [_, _] => simp [takeS]
  | a :: b :: c :: tl => simp [takeS, eq_comm, and_comm]

theorem decode_reserved (op : Byte) (rest : List Byte) (h : OpName.ofOpcode op = none) :
    decode (op :: rest) = .reserved op rest := by simp [decode, h]

theorem decode_known (op : Byte) (rest : List Byte) (n : OpName) (h : OpName.ofOpcode op = some n) :
    decode (op :: rest) = decodeOperands op n rest := by simp [decode, h]

end Sys2Proof
end

