-- ==== Sys2Proof/Laws/State.lean ====
section
/-! SUPPORT. One lemma per field per update of the state, so that no later proof unfolds a record update. -/

namespace Sys2Proof.Machine

variable (s : State)

/-! `logEvent`. -/

@[simp] theorem State.logEvent_cfg (e : Event) : (s.logEvent e).cfg = s.cfg := rfl
@[simp] theorem State.logEvent_addr (e : Event) : (s.logEvent e).addr = s.addr := rfl
@[simp] theorem State.logEvent_err (e : Event) : (s.logEvent e).err = s.err := rfl
@[simp] theorem State.logEvent_haveFlag (e : Event) : (s.logEvent e).haveFlag = s.haveFlag := rfl
@[simp] theorem State.logEvent_tVal (e : Event) : (s.logEvent e).tVal = s.tVal := rfl
@[simp] theorem State.logEvent_hVal (e : Event) : (s.logEvent e).hVal = s.hVal := rfl
@[simp] theorem State.logEvent_phase (e : Event) : (s.logEvent e).phase = s.phase := rfl
@[simp] theorem State.logEvent_input (e : Event) : (s.logEvent e).input = s.input := rfl
@[simp] theorem State.logEvent_writeScript (e : Event) : (s.logEvent e).writeScript = s.writeScript := rfl
@[simp] theorem State.logEvent_readScript (e : Event) : (s.logEvent e).readScript = s.readScript := rfl
@[simp] theorem State.logEvent_calls (e : Event) : (s.logEvent e).calls = s.calls := rfl
@[simp] theorem State.logEvent_history (e : Event) : (s.logEvent e).history = s.history ++ [e] := rfl

/-! `withErr`. -/

@[simp] theorem State.withErr_cfg (e : Err) : (s.withErr e).cfg = s.cfg := rfl
@[simp] theorem State.withErr_addr (e : Err) : (s.withErr e).addr = s.addr := rfl
@[simp] theorem State.withErr_err (e : Err) : (s.withErr e).err = e := rfl
@[simp] theorem State.withErr_haveFlag (e : Err) : (s.withErr e).haveFlag = s.haveFlag := rfl
@[simp] theorem State.withErr_tVal (e : Err) : (s.withErr e).tVal = s.tVal := rfl
@[simp] theorem State.withErr_hVal (e : Err) : (s.withErr e).hVal = s.hVal := rfl
@[simp] theorem State.withErr_phase (e : Err) : (s.withErr e).phase = s.phase := rfl
@[simp] theorem State.withErr_input (e : Err) : (s.withErr e).input = s.input := rfl
@[simp] theorem State.withErr_writeScript (e : Err) : (s.withErr e).writeScript = s.writeScript := rfl
@[simp] theorem State.withErr_readScript (e : Err) : (s.withErr e).readScript = s.readScript := rfl
@[simp] theorem State.withErr_calls (e : Err) : (s.withErr e).calls = s.calls := rfl
@[simp] theorem State.withErr_history (e : Err) : (s.withErr e).history = s.history := rfl

/-! `withAddr`. -/

@[simp] theorem State.withAddr_cfg (a : BusAddr) : (s.withAddr a).cfg = s.cfg := rfl
@[simp] theorem State.withAddr_addr (a : BusAddr) : (s.withAddr a).addr = a := rfl
@[simp] theorem State.withAddr_err (a : BusAddr) : (s.withAddr a).err = s.err := rfl
@[simp] theorem State.withAddr_haveFlag (a : BusAddr) : (s.withAddr a).haveFlag = s.haveFlag := rfl
@[simp] theorem State.withAddr_tVal (a : BusAddr) : (s.withAddr a).tVal = s.tVal := rfl
@[simp] theorem State.withAddr_hVal (a : BusAddr) : (s.withAddr a).hVal = s.hVal := rfl
@[simp] theorem State.withAddr_phase (a : BusAddr) : (s.withAddr a).phase = s.phase := rfl
@[simp] theorem State.withAddr_input (a : BusAddr) : (s.withAddr a).input = s.input := rfl
@[simp] theorem State.withAddr_writeScript (a : BusAddr) : (s.withAddr a).writeScript = s.writeScript := rfl
@[simp] theorem State.withAddr_readScript (a : BusAddr) : (s.withAddr a).readScript = s.readScript := rfl
@[simp] theorem State.withAddr_calls (a : BusAddr) : (s.withAddr a).calls = s.calls := rfl
@[simp] theorem State.withAddr_history (a : BusAddr) : (s.withAddr a).history = s.history := rfl

/-! `withPhase`. -/

@[simp] theorem State.withPhase_cfg (p : Phase) : (s.withPhase p).cfg = s.cfg := rfl
@[simp] theorem State.withPhase_addr (p : Phase) : (s.withPhase p).addr = s.addr := rfl
@[simp] theorem State.withPhase_err (p : Phase) : (s.withPhase p).err = s.err := rfl
@[simp] theorem State.withPhase_haveFlag (p : Phase) : (s.withPhase p).haveFlag = s.haveFlag := rfl
@[simp] theorem State.withPhase_tVal (p : Phase) : (s.withPhase p).tVal = s.tVal := rfl
@[simp] theorem State.withPhase_hVal (p : Phase) : (s.withPhase p).hVal = s.hVal := rfl
@[simp] theorem State.withPhase_phase (p : Phase) : (s.withPhase p).phase = p := rfl
@[simp] theorem State.withPhase_input (p : Phase) : (s.withPhase p).input = s.input := rfl
@[simp] theorem State.withPhase_writeScript (p : Phase) : (s.withPhase p).writeScript = s.writeScript := rfl
@[simp] theorem State.withPhase_readScript (p : Phase) : (s.withPhase p).readScript = s.readScript := rfl
@[simp] theorem State.withPhase_calls (p : Phase) : (s.withPhase p).calls = s.calls := rfl
@[simp] theorem State.withPhase_history (p : Phase) : (s.withPhase p).history = s.history := rfl

/-! `withInput`. -/

@[simp] theorem State.withInput_cfg (bs : List Byte) : (s.withInput bs).cfg = s.cfg := rfl
@[simp] theorem State.withInput_addr (bs : List Byte) : (s.withInput bs).addr = s.addr := rfl
@[simp] theorem State.withInput_err (bs : List Byte) : (s.withInput bs).err = s.err := rfl
@[simp] theorem State.withInput_haveFlag (bs : List Byte) : (s.withInput bs).haveFlag = s.haveFlag := rfl
@[simp] theorem State.withInput_tVal (bs : List Byte) : (s.withInput bs).tVal = s.tVal := rfl
@[simp] theorem State.withInput_hVal (bs : List Byte) : (s.withInput bs).hVal = s.hVal := rfl
@[simp] theorem State.withInput_phase (bs : List Byte) : (s.withInput bs).phase = s.phase := rfl
@[simp] theorem State.withInput_input (bs : List Byte) : (s.withInput bs).input = bs := rfl
@[simp] theorem State.withInput_writeScript (bs : List Byte) : (s.withInput bs).writeScript = s.writeScript := rfl
@[simp] theorem State.withInput_readScript (bs : List Byte) : (s.withInput bs).readScript = s.readScript := rfl
@[simp] theorem State.withInput_calls (bs : List Byte) : (s.withInput bs).calls = s.calls := rfl
@[simp] theorem State.withInput_history (bs : List Byte) : (s.withInput bs).history = s.history := rfl

/-! `withCache`. -/

@[simp] theorem State.withCache_cfg (t h : Flt) : (s.withCache t h).cfg = s.cfg := rfl
@[simp] theorem State.withCache_addr (t h : Flt) : (s.withCache t h).addr = s.addr := rfl
@[simp] theorem State.withCache_err (t h : Flt) : (s.withCache t h).err = s.err := rfl
@[simp] theorem State.withCache_haveFlag (t h : Flt) : (s.withCache t h).haveFlag = true := rfl
@[simp] theorem State.withCache_tVal (t h : Flt) : (s.withCache t h).tVal = t := rfl
@[simp] theorem State.withCache_hVal (t h : Flt) : (s.withCache t h).hVal = h := rfl
@[simp] theorem State.withCache_phase (t h : Flt) : (s.withCache t h).phase = s.phase := rfl
@[simp] theorem State.withCache_input (t h : Flt) : (s.withCache t h).input = s.input := rfl
@[simp] theorem State.withCache_writeScript (t h : Flt) : (s.withCache t h).writeScript = s.writeScript := rfl
@[simp] theorem State.withCache_readScript (t h : Flt) : (s.withCache t h).readScript = s.readScript := rfl
@[simp] theorem State.withCache_calls (t h : Flt) : (s.withCache t h).calls = s.calls := rfl
@[simp] theorem State.withCache_history (t h : Flt) : (s.withCache t h).history = s.history := rfl

/-! `transportWrite`. -/

@[simp] theorem State.transportWrite_cfg (a : BusAddr) (bs : List Byte) : (s.transportWrite a bs).cfg = s.cfg := rfl
@[simp] theorem State.transportWrite_addr (a : BusAddr) (bs : List Byte) : (s.transportWrite a bs).addr = s.addr := rfl
@[simp] theorem State.transportWrite_err (a : BusAddr) (bs : List Byte) : (s.transportWrite a bs).err = s.err := rfl
@[simp] theorem State.transportWrite_haveFlag (a : BusAddr) (bs : List Byte) : (s.transportWrite a bs).haveFlag = s.haveFlag := rfl
@[simp] theorem State.transportWrite_tVal (a : BusAddr) (bs : List Byte) : (s.transportWrite a bs).tVal = s.tVal := rfl
@[simp] theorem State.transportWrite_hVal (a : BusAddr) (bs : List Byte) : (s.transportWrite a bs).hVal = s.hVal := rfl
@[simp] theorem State.transportWrite_phase (a : BusAddr) (bs : List Byte) : (s.transportWrite a bs).phase = s.phase := rfl
@[simp] theorem State.transportWrite_input (a : BusAddr) (bs : List Byte) : (s.transportWrite a bs).input = s.input := rfl
@[simp] theorem State.transportWrite_writeScript (a : BusAddr) (bs : List Byte) : (s.transportWrite a bs).writeScript = s.writeScript.tail := rfl
@[simp] theorem State.transportWrite_readScript (a : BusAddr) (bs : List Byte) : (s.transportWrite a bs).readScript = s.readScript := rfl
@[simp] theorem State.transportWrite_calls (a : BusAddr) (bs : List Byte) : (s.transportWrite a bs).calls = s.calls + 1 := rfl
@[simp] theorem State.transportWrite_history (a : BusAddr) (bs : List Byte) : (s.transportWrite a bs).history = s.history ++ [.write a bs s.nextWrite] := rfl

/-! `transportRead`. -/

@[simp] theorem State.transportRead_cfg (a : BusAddr) (n : Nat) : (s.transportRead a n).cfg = s.cfg := rfl
@[simp] theorem State.transportRead_addr (a : BusAddr) (n : Nat) : (s.transportRead a n).addr = s.addr := rfl
@[simp] theorem State.transportRead_err (a : BusAddr) (n : Nat) : (s.transportRead a n).err = s.err := rfl
@[simp] theorem State.transportRead_haveFlag (a : BusAddr) (n : Nat) : (s.transportRead a n).haveFlag = s.haveFlag := rfl
@[simp] theorem State.transportRead_tVal (a : BusAddr) (n : Nat) : (s.transportRead a n).tVal = s.tVal := rfl
@[simp] theorem State.transportRead_hVal (a : BusAddr) (n : Nat) : (s.transportRead a n).hVal = s.hVal := rfl
@[simp] theorem State.transportRead_phase (a : BusAddr) (n : Nat) : (s.transportRead a n).phase = s.phase := rfl
@[simp] theorem State.transportRead_input (a : BusAddr) (n : Nat) : (s.transportRead a n).input = s.input := rfl
@[simp] theorem State.transportRead_writeScript (a : BusAddr) (n : Nat) : (s.transportRead a n).writeScript = s.writeScript := rfl
@[simp] theorem State.transportRead_readScript (a : BusAddr) (n : Nat) : (s.transportRead a n).readScript = s.readScript.tail := rfl
@[simp] theorem State.transportRead_calls (a : BusAddr) (n : Nat) : (s.transportRead a n).calls = s.calls + 1 := rfl
@[simp] theorem State.transportRead_history (a : BusAddr) (n : Nat) : (s.transportRead a n).history = s.history ++ [.read a n s.nextRead] := rfl

end Sys2Proof.Machine
end

