-- ==== Sys2Proof/Laws/Ops.lean ====
section
/-! SUPPORT. What each shared operation does, once: the whole state after it, cited by proofs in place of its body. -/

namespace Sys2Proof.Machine

variable (s : State)

theorem respond_eq (r : Response) : s.respond r = { s with history := s.history ++ [.response r.bytes] } := rfl

@[simp] theorem lastResponse_respond (r : Response) : (s.respond r).lastResponse = some r.bytes := by
  simp [State.lastResponse, State.respond]

theorem delay_eq (ms : Nat) : s.delay ms = { s with history := s.history ++ [.delay ms] } := rfl

theorem clearErr_eq : s.clearErr = { s with err := .none, history := s.history ++ [.errCleared] } := rfl

theorem raise_fields (e : Err) :
    (s.raise e).err = e ∧ (s.raise e).phase = .idle ∧ (s.raise e).cfg = s.cfg ∧ (s.raise e).addr = s.addr ∧
    (s.raise e).haveFlag = s.haveFlag ∧ (s.raise e).tVal = s.tVal ∧ (s.raise e).hVal = s.hVal ∧
    (s.raise e).input = s.input ∧ (s.raise e).writeScript = s.writeScript ∧
    (s.raise e).readScript = s.readScript ∧ (s.raise e).calls = s.calls := by
  simp [State.raise, State.respond]

theorem raise_history (e : Err) :
    (s.raise e).history = s.history ++ [.errSet e, .response [0x00]] := by
  simp [State.raise, State.respond, Response.bytes]

theorem commitAndReturn_eq (t h : Flt) :
    s.commitAndReturn t h = { s with
      tVal := t, hVal := h, haveFlag := true, phase := .idle,
      history := s.history ++ [.commit t h, .response (0x01 :: (floatBytes t ++ floatBytes h))] } := by
  simp [State.commitAndReturn, State.respond, State.logEvent, State.withPhase, State.withCache, Response.bytes]

theorem nextWrite_cons (w : WriteAnswer) (ws : List WriteAnswer) (h : s.writeScript = w :: ws) :
    s.nextWrite = w := by simp [State.nextWrite, h]

theorem nextWrite_nil (h : s.writeScript = []) :
    s.nextWrite = Config.freeWriteAnswer s.cfg.transport s.calls := by simp [State.nextWrite, h]

theorem nextRead_cons (r : ReadAnswer) (rs : List ReadAnswer) (h : s.readScript = r :: rs) :
    s.nextRead = r := by simp [State.nextRead, h]

theorem nextRead_nil (h : s.readScript = []) :
    s.nextRead = Config.freeReadAnswer s.cfg.transport s.calls := by simp [State.nextRead, h]

/-- `frameOfBytes` accepts exactly the sequences of six bytes. -/
theorem frameOfBytes_eq_some (bs : List Byte) (fb : Frame) :
    frameOfBytes bs = some fb ↔ bs = [fb.tHi, fb.tLo, fb.tCk, fb.hHi, fb.hLo, fb.hCk] := by
  constructor
  · intro h
    match bs, h with
    | [_, _, _, _, _, _], h => cases h; rfl
  · rintro rfl; rfl

theorem frameOfBytes_eq_none (bs : List Byte) : frameOfBytes bs = none ↔ bs.length ≠ 6 := by
  match bs with
  | [] | [_] | [_, _] | [_, _, _] | [_, _, _, _] | [_, _, _, _, _] | [_, _, _, _, _, _] => simp [frameOfBytes]
  | _ :: _ :: _ :: _ :: _ :: _ :: _ :: _ => simp [frameOfBytes]

theorem checkMatches_iff (hi lo ck : Byte) : checkMatches crcInit hi lo ck = true ↔ crc8 hi lo = ck := by
  simp [checkMatches, crc8]

/-- The loop of `SCAN` cuts the script, counts the calls and logs one write per address, whatever the answers. -/
theorem scanFrom_state (as : List BusAddr) (s : State) :
    (scanFrom as s).2 = as.foldl (fun s a => s.probe a) s := by
  induction as generalizing s with
  | nil => rfl
  | cons a as ih =>
    simp only [scanFrom, List.foldl_cons, ← ih]
    split <;> rfl

end Sys2Proof.Machine
end

