-- ==== Sys2Proof/Laws/Sequencer.lean ====
section
/-! SUPPORT. What one step of the sequencer can do, phase by phase, and how a run of phases goes on. -/

namespace Sys2Proof.Machine

variable (s : State)

theorem advance_idle (h : s.phase = .idle) : s.advance = s := by simp [State.advance, h]

theorem advance_write (h : s.phase = .write) : s.advance = s.stepWrite := by simp [State.advance, h]

theorem advance_wait (h : s.phase = .wait) : s.advance = s.stepWait := by simp [State.advance, h]

theorem advance_read (h : s.phase = .read) : s.advance = s.stepRead := by simp [State.advance, h]

theorem advance_chkT (crc : Byte) (fb : Frame) (h : s.phase = .chkT crc fb) :
    s.advance = s.stepChkT crc fb := by simp [State.advance, h]

theorem advance_cvtT (fb : Frame) (c : Count) (h : s.phase = .cvtT fb c) :
    s.advance = s.stepCvtT fb c := by simp [State.advance, h]

theorem advance_chkH (crc : Byte) (fb : Frame) (t : Flt) (h : s.phase = .chkH crc fb t) :
    s.advance = s.stepChkH crc fb t := by simp [State.advance, h]

theorem advance_cvtH (t : Flt) (c : Count) (h : s.phase = .cvtH t c) :
    s.advance = s.stepCvtH t c := by simp [State.advance, h]

theorem advance_commit (t u : Flt) (h : s.phase = .commit t u) :
    s.advance = s.commitAndReturn t u := by simp [State.advance, h]

theorem advanceN_idle (n : Nat) (h : s.phase = .idle) : State.advanceN n s = s := by
  induction n with
  | zero => rfl
  | succ n ih => simpa [State.advanceN, advance_idle s h] using ih

theorem advanceN_add (m n : Nat) (s : State) :
    State.advanceN (m + n) s = State.advanceN n (State.advanceN m s) := by
  induction m generalizing s with
  | zero => simp [State.advanceN]
  | succ m ih => simp [Nat.succ_add, State.advanceN, ih]

/-- A frame read can do one of two things: end the operation, or fill the frame buffer with the six bytes
answered. -/
theorem stepRead_cases :
    (s.stepRead = (s.transportRead s.addr 6).raise .transportReadFailed ∧
      (s.nextRead = .fail ∨ ∃ bs short, s.nextRead = .bytes bs short ∧ bs.length ≠ 6)) ∨
    ∃ fb short, s.nextRead = .bytes [fb.tHi, fb.tLo, fb.tCk, fb.hHi, fb.hLo, fb.hCk] short ∧
      s.stepRead = (s.transportRead s.addr 6).withPhase (.chkT crcInit fb) := by
  unfold State.stepRead
  cases h : s.nextRead with
  | fail => exact .inl ⟨rfl, .inl rfl⟩
  | bytes bs short =>
    cases h6 : frameOfBytes bs with
    | none => exact .inl ⟨by simp [h6], .inr ⟨bs, short, rfl, (frameOfBytes_eq_none bs).1 h6⟩⟩
    | some fb =>
      obtain rfl := (frameOfBytes_eq_some bs fb).1 h6
      exact .inr ⟨fb, short, rfl, by simp [h6]⟩

@[simp] theorem raise_withPhase (p : Phase) (e : Err) : (s.withPhase p).raise e = s.raise e := rfl

@[simp] theorem commitAndReturn_withPhase (p : Phase) (t h : Flt) :
    (s.withPhase p).commitAndReturn t h = s.commitAndReturn t h := rfl

/-- `process_frame` (R86): from the temperature check of a filled frame buffer, five phases or more end the
operation in one of three ways. -/
theorem advanceN_chkT (n : Nat) (fb : Frame) (h : s.phase = .chkT crcInit fb) :
    State.advanceN (5 + n) s =
      if crc8 fb.tHi fb.tLo = fb.tCk then
        if crc8 fb.hHi fb.hLo = fb.hCk then
          s.commitAndReturn (cvtT s.cfg.fmt (raw fb.tHi fb.tLo)) (cvtH s.cfg.fmt (raw fb.hHi fb.hLo))
        else s.raise .checksumFailedHumidity
      else s.raise .checksumFailedTemperature := by
  rw [advanceN_add]
  have stays : ∀ e : Err, (s.raise e).advance = s.raise e := fun e => advance_idle _ (raise_fields s e).2.1
  have raised : ∀ e : Err, State.advanceN n (s.raise e) = s.raise e :=
    fun e => advanceN_idle _ n (raise_fields s e).2.1
  simp only [State.advanceN, advance_chkT s _ _ h, State.stepChkT, checkMatches_iff]
  split
  · rw [advance_cvtT _ _ _ (State.withPhase_phase _ _), State.stepCvtT,
      advance_chkH _ _ _ _ (State.withPhase_phase _ _), State.stepChkH]
    simp only [checkMatches_iff, State.withPhase_cfg]
    split
    · rw [advance_cvtH _ _ _ (State.withPhase_phase _ _), State.stepCvtH,
        advance_commit _ _ _ (State.withPhase_phase _ _)]
      simp only [commitAndReturn_withPhase, State.withPhase_cfg]
      exact advanceN_idle _ n rfl
    · simp only [raise_withPhase, stays, raised]
  · simp only [stays, raised]

/-- What a step of a busy instance is. -/
theorem step_busy (h : s.phase ≠ .idle) : step s = .next s.advance := by
  unfold step
  split
  · contradiction
  · rfl

end Sys2Proof.Machine
end

