-- ==== Sys2Proof/Laws/Exec.lean ====
section
/-! SUPPORT. What `exec`, `step` and `phaseStep` can do, once: every operation has a next state, and a step is one of four
cases. -/

namespace Sys2Proof.Machine

variable (s : State)

/-- No meaning stops. -/
theorem exec_answers (i : Instr) : ∃ t, exec i s = .next t := by cases i <;> exact ⟨_, rfl⟩

/-- `FRAME` in closed form (R86, R87). -/
theorem finish_beginFrame (fb : Frame) :
    (s.beginFrame fb).finish =
      if crc8 fb.tHi fb.tLo = fb.tCk then
        if crc8 fb.hHi fb.hLo = fb.hCk then
          s.clearErr.commitAndReturn (cvtT s.cfg.fmt (raw fb.tHi fb.tLo)) (cvtH s.cfg.fmt (raw fb.hHi fb.hLo))
        else s.clearErr.raise .checksumFailedHumidity
      else s.clearErr.raise .checksumFailedTemperature :=
  advanceN_chkT (s.beginFrame fb) 3 fb rfl

/-- A step of an idle instance, by what its command stream begins with. -/
theorem step_idle (h : s.phase = .idle) :
    step s = match decode s.input with
      | .packet i rest => exec i (s.withInput rest)
      | .reserved _ rest => .next (s.withInput rest).answerReserved
      | .incomplete op => .refused (.incompletePacket op)
      | .streamEnd => .refused .streamEnded := by
  cases s; cases h; rfl

/-- If a step answers a next state, the instance was busy, or a packet was executed, or a reserved opcode
answered. -/
theorem step_cases {t : State} (h : step s = .next t) :
    (s.phase ≠ .idle ∧ t = s.advance) ∨
    (s.phase = .idle ∧ ∃ i rest, decode s.input = .packet i rest ∧ exec i (s.withInput rest) = .next t) ∨
    (s.phase = .idle ∧ ∃ op rest, decode s.input = .reserved op rest ∧ t = (s.withInput rest).answerReserved) := by
  by_cases hp : s.phase = .idle
  · rw [step_idle s hp] at h
    split at h
    · exact .inr (.inl ⟨hp, _, _, ‹_›, h⟩)
    · cases h; exact .inr (.inr ⟨hp, _, _, ‹_›, rfl⟩)
    · cases h
    · cases h
  · rw [step_busy s hp] at h
    cases h
    exact .inl ⟨hp, rfl⟩

theorem beginOperation_eq_exec (i : Instr) (h : i ≠ .meas) : beginOperation i s = exec i s := by
  cases i <;> first | rfl | exact absurd rfl h

theorem phaseStep_busy (h : s.phase ≠ .idle) : phaseStep s = .next s.advance := by
  unfold phaseStep
  split
  · contradiction
  · rfl

end Sys2Proof.Machine
end

