-- ==== Sys2Proof/Laws/PerInstr.lean ====
section
/-! SUPPORT. Statements made per instruction: the form of each operation's packet (spec 30_encoding.md R47). -/

namespace Sys2Proof.Laws.PacketForm

/-- The packet is one opcode byte of the map and as many operand bytes as its format has. -/
def Statement (i : Instr) : Prop :=
  (encode i).length = 1 + i.opName.format.operandBytes ∧ OpName.ofOpcode ((encode i).headD 0) = some i.opName

theorem crc8 (hi lo : Byte) : Statement (.crc8 hi lo) := ⟨rfl, rfl⟩
theorem chk (hi lo ck : Byte) : Statement (.chk hi lo ck) := ⟨rfl, rfl⟩
theorem cvtt (hi lo : Byte) : Statement (.cvtt hi lo) := ⟨rfl, rfl⟩
theorem cvth (hi lo : Byte) : Statement (.cvth hi lo) := ⟨rfl, rfl⟩
theorem frame (b0 b1 b2 b3 b4 b5 : Byte) : Statement (.frame b0 b1 b2 b3 b4 b5) := ⟨rfl, rfl⟩
theorem meas : Statement .meas := ⟨rfl, rfl⟩
theorem gett : Statement .gett := ⟨rfl, rfl⟩
theorem geth : Statement .geth := ⟨rfl, rfl⟩
theorem geterr : Statement .geterr := ⟨rfl, rfl⟩
theorem setaddr (a : Byte) : Statement (.setaddr a) := ⟨rfl, rfl⟩
theorem getaddr : Statement .getaddr := ⟨rfl, rfl⟩
theorem scan : Statement .scan := ⟨rfl, rfl⟩

end Sys2Proof.Laws.PacketForm
end

