-- ==== Sys2Proof/Tests/Slice0.lean ====
section
/-! SUPPORT. The package's own tests: expected results are those of spec/95_test_vectors.md and of the worked examples of the
rules; and for each statement with hypotheses a witness that meets them. -/

namespace Sys2Proof.Tests

open Sys2Proof Sys2Proof.Machine

/-! Well-formedness: the one check, R51, at the boundaries of its range. -/

theorem test_wellFormed_refuses_zero : (Instr.setaddr 0x00).wellFormed = false := by decide
theorem test_wellFormed_refuses_0x80 : (Instr.setaddr 0x80).wellFormed = false := by decide
theorem test_wellFormed_refuses_0xFF : (Instr.setaddr 0xFF).wellFormed = false := by decide
theorem test_wellFormed_accepts_bounds :
    (Instr.setaddr 0x01).wellFormed = true ∧ (Instr.setaddr 0x7F).wellFormed = true := by decide

/-! Decoding: each row of R48 as bits, written out from its encoding. -/

theorem test_decode_crc8 :
    decode [0b00010000, 0b10111110, 0b11101111] = .packet (.crc8 0xBE 0xEF) [] := by decide
theorem test_decode_chk :
    decode [0b00010001, 0b10111110, 0b11101111, 0b10010010] = .packet (.chk 0xBE 0xEF 0x92) [] := by decide
theorem test_decode_cvtt :
    decode [0b00100000, 0b01100101, 0b00100000] = .packet (.cvtt 0x65 0x20) [] := by decide
theorem test_decode_cvth :
    decode [0b00100001, 0b10000010, 0b01000100] = .packet (.cvth 0x82 0x44) [] := by decide
theorem test_decode_frame :
    decode [0b00110000, 0b01100101, 0b00100000, 0b00100101, 0b10000010, 0b01000100, 0b10000011] =
      .packet (.frame 0x65 0x20 0x25 0x82 0x44 0x83) [] := by decide
theorem test_decode_meas : decode [0b00110001] = .packet .meas [] := by decide
theorem test_decode_gett : decode [0b01000000] = .packet .gett [] := by decide
theorem test_decode_geth : decode [0b01000001] = .packet .geth [] := by decide
theorem test_decode_geterr : decode [0b01000010] = .packet .geterr [] := by decide
theorem test_decode_setaddr : decode [0b01000011, 0b01000100] = .packet (.setaddr 0x44) [] := by decide
theorem test_decode_getaddr : decode [0b01000100] = .packet .getaddr [] := by decide
theorem test_decode_scan : decode [0b01010000] = .packet .scan [] := by decide
theorem test_decode_reserved : decode [0x32, 0x31] = .reserved 0x32 [0x31] := by decide
theorem test_decode_incomplete : decode [0x10, 0xBE] = .incomplete 0x10 := by decide

/-- The words of spec/opcode_table.json (column `match`), operands zero. -/
theorem test_tableWord :
    decodeTableWord 24 0x100000 = some (.crc8 0 0) ∧ decodeTableWord 32 0x11000000 = some (.chk 0 0 0) ∧
    decodeTableWord 24 0x200000 = some (.cvtt 0 0) ∧ decodeTableWord 24 0x210000 = some (.cvth 0 0) ∧
    decodeTableWord 56 0x30000000000000 = some (.frame 0 0 0 0 0 0) ∧ decodeTableWord 8 0x31 = some .meas ∧
    decodeTableWord 8 0x40 = some .gett ∧ decodeTableWord 8 0x41 = some .geth ∧
    decodeTableWord 8 0x42 = some .geterr ∧ decodeTableWord 16 0x4300 = some (.setaddr 0) ∧
    decodeTableWord 8 0x44 = some .getaddr ∧ decodeTableWord 8 0x50 = some .scan ∧
    decodeTableWord 8 0x43 = some (.setaddr 0) ∧ decodeTableWord 8 0x12 = none := by decide

/-- The examples of R56. -/
theorem test_assembly :
    (Instr.crc8 0xBE 0xEF).assembly = "CRC8 0xBE, 0xEF" ∧
    (Instr.frame 0x65 0x20 0x25 0x82 0x44 0x82).assembly = "FRAME 0x65, 0x20, 0x25, 0x82, 0x44, 0x82" ∧
    Instr.meas.assembly = "MEAS" ∧ (Instr.setaddr 0x44).assembly = "SETADDR 0x44" := by decide +kernel

/-! One step on a small state. -/

/-- The next state, when there is one. -/
def nextOf (o : Host.Outcome State Fault Refusal) : Option State :=
  match o with
  | .next t => some t
  | .fault _ => none
  | .refused _ => none

/-- A fresh instance with parameters of R6. -/
def fresh : State := State.create Config.default 0 0

/-- The start state of 95_test_vectors.md sections 2.4 and 2.5: a stale error, caches 25.0 and 40.0. -/
def before : State :=
  { fresh with
    err := .transportReadFailed, haveFlag := true,
    tVal := .b64 0x4039000000000000, hVal := .b64 0x4044000000000000 }

/-- `before` with a transport that answers the write with `w` and the read with `r`. -/
def bus (w : WriteAnswer) (r : ReadAnswer) : State := { before with writeScript := [w], readScript := [r] }

/-- The registers a read attempt writes. -/
def registers (s : State) : Err × Bool × Flt × Flt := (s.err, s.haveFlag, s.tVal, s.hVal)

/-- The response to an operation. -/
def answer (i : Instr) (s : State) : Option (List Byte) := (nextOf (exec i s)).bind State.lastResponse

theorem test_crc8_example : answer (.crc8 0xBE 0xEF) before = some [0x01, 0x92] := by decide +kernel
theorem test_crc8_high_byte_first : answer (.crc8 0x00 0x80) before = some [0x01, 0xFB] := by decide +kernel
theorem test_chk_match : answer (.chk 0x65 0x20 0x25) before = some [0x01, 0x01] := by decide +kernel
theorem test_chk_mismatch : answer (.chk 0x65 0x20 0x5C) before = some [0x01, 0x00] := by decide +kernel

/-- Count 16851, the last one below 0 degrees (section 2.2). -/
theorem test_cvtt_binary64 :
    answer (.cvtt 0x41 0xD3) before = some [0x01, 0xBF, 0x62, 0xC0, 0x12, 0xC0, 0x12, 0xC0, 0x00] := by decide

/-- Count 48879, which is not the binary64 result narrowed (section 2.2). -/
theorem test_cvtt_binary32 :
    answer (.cvtt 0xBE 0xEF) { before with cfg := { Config.default with fmt := .binary32 } } =
      some [0x01, 0x42, 0xAB, 0x0B, 0xC8] := by decide

theorem test_cvth_binary64 :
    answer (.cvth 0xAA 0xAA) before = some [0x01, 0x40, 0x50, 0xAA, 0xAA, 0xAA, 0xAA, 0xAA, 0xAB] := by decide

theorem test_cvth_binary32 :
    answer (.cvth 0x00 0x03) { before with cfg := { Config.default with fmt := .binary32 } } =
      some [0x01, 0x3B, 0x96, 0x00, 0x96] := by decide

/-- F9: the sub-frames swapped. -/
theorem test_frame_commits :
    (nextOf (exec (.frame 0x82 0x44 0x82 0x65 0x20 0x25) before)).map registers =
      some (.none, true, .b64 0x4046066A866A866A, .b64 0x4043C053C053C054) := by decide +kernel

/-- F2: no partial update. -/
theorem test_frame_humidity_bad :
    (nextOf (exec (.frame 0x65 0x20 0x25 0x82 0x44 0x83) before)).map registers =
      some (.checksumFailedHumidity, true, .b64 0x4039000000000000, .b64 0x4044000000000000) := by decide +kernel

/-- M1: the events in order. -/
theorem test_meas_events :
    (nextOf (exec .meas (bus .ok (.bytes [0x65, 0x20, 0x25, 0x82, 0x44, 0x82] (by decide))))).map (·.history) =
      some [.errCleared, .write 0x44 [0x2C, 0x06] .ok, .delay 20,
        .read 0x44 6 (.bytes [0x65, 0x20, 0x25, 0x82, 0x44, 0x82] (by decide)),
        .commit (.b64 0x4038212521252124) (.b64 0x4049716171617161),
        .response [0x01, 0x40, 0x38, 0x21, 0x25, 0x21, 0x25, 0x21, 0x24,
          0x40, 0x49, 0x71, 0x61, 0x71, 0x61, 0x71, 0x61]] := by decide +kernel

/-- M4: a short read whose first three bytes are a valid sub-frame. -/
theorem test_meas_short_read :
    (nextOf (exec .meas (bus .ok (.bytes [0x65, 0x20, 0x25, 0x82, 0x44] (by decide))))).map registers =
      some (.transportReadFailed, true, .b64 0x4039000000000000, .b64 0x4044000000000000) := by decide

/-- A11, A12, A13. -/
theorem test_gett : answer .gett before = some [0x01, 0x01, 0x40, 0x39, 0, 0, 0, 0, 0, 0] := by decide
theorem test_geth : answer .geth before = some [0x01, 0x01, 0x40, 0x44, 0, 0, 0, 0, 0, 0] := by decide
theorem test_geterr : answer .geterr { before with err := .checksumFailedHumidity } = some [0x01, 0x04] := by decide

/-- A3: the bytes after `HAVE` are not looked at. -/
theorem test_gett_at_reset : (answer .gett State.reset).map (List.take 2) = some [0x01, 0x00] := by rfl

/-- A10, A7. -/
theorem test_setaddr_highest : (nextOf (exec (.setaddr 0x7F) before)).map (·.addr) = some 0x7F := by decide
theorem test_setaddr_illegal :
    (nextOf (exec (.setaddr 0x80) before)).map (fun t => (t.addr, t.lastResponse)) = some (0x44, some [0xFF]) := by
  decide

/-- A1. -/
theorem test_getaddr : answer .getaddr State.reset = some [0x01, 0x44] := by decide

/-- C2: only address 0x44 acknowledges. -/
theorem test_scan_one_device :
    answer .scan { before with
      writeScript := List.replicate 0x43 .fail ++ [.ok] ++ List.replicate 0x3B .fail } =
      some [0x01, 0x01, 0x44] := by decide +kernel

/-- C1: 127 probe writes are made; the first goes to address 1. -/
theorem test_scan_no_device :
    (nextOf (exec .scan { before with writeScript := List.replicate 127 .fail })).map
      (fun t => (t.lastResponse, t.calls, t.writeScript, t.history.head?)) =
      some (some [0x01, 0x00], 127, [], some (.write 0x01 [0x00] .fail)) := by decide +kernel

/-- Section 2.8: a reserved opcode is answered, one byte is consumed. -/
theorem test_step_reserved :
    (nextOf (step { before with input := [0x32, 0x31] })).map (fun t => (t.lastResponse, t.input, t.err)) =
      some (some [0xFF], [0x31], .transportReadFailed) := by decide

/-- Section 2.8, last row but one: `SETADDR` with an illegal operand is a packet of two bytes. -/
theorem test_step_setaddr_illegal :
    (nextOf (step { before with input := [0x43, 0x80, 0x44] })).map (fun t => (t.lastResponse, t.input)) =
      some (some [0xFF], [0x44]) := by decide

/-- The operation of a table word runs first after reset. -/
theorem test_withFetchWord :
    (nextOf (step (State.reset.withFetchWord 16 0x4345))).map (fun t => (t.addr, t.input)) =
      some (0x45, []) := by decide

/-- A step from reset is a next state for the operations that reach the transport, whatever it answers. -/
theorem test_first_step_reaches_transport :
    (∃ t, step (State.reset.withFetchWord 8 0x31) = .next t) ∧
    ∃ t, step (State.reset.withFetchWord 8 0x50) = .next t := ⟨⟨_, rfl⟩, ⟨_, rfl⟩⟩

/-! Rounding: ties and signs. -/

/-- 2^24 + 1 is half-way in binary32 and goes down to the even neighbour; 2^24 + 3 goes up. -/
theorem test_rn_ties_to_even :
    rn .binary32 16777217 1 = ⟨false, 8388608, 1⟩ ∧ rn .binary32 16777219 1 = ⟨false, 8388610, 1⟩ := by decide
theorem test_rn_negative : (rn .binary64 (-45) 1).encode .binary64 = .b64 0xC046800000000000 := by decide

/-! Witnesses: concrete values that meet the hypotheses of the statements together. -/

/-- A fresh instance after a successful `FRAME`. -/
def measured : State :=
  { fresh with
    haveFlag := true, tVal := cvtT .binary64 0x6520, hVal := cvtH .binary64 0x8244,
    history := [.errCleared, .commit (cvtT .binary64 0x6520) (cvtH .binary64 0x8244)] }

theorem fresh_inv : fresh.Inv := by
  refine ⟨by decide, by decide, rfl, rfl, ?_, trivial⟩
  intro h
  exact absurd h (by decide)

theorem witness_CommandStreamReadsBack :
    let ps : List Packet := [.operation .meas, .reserved 0x32, .operation (.setaddr 0x00)]
    ∀ op, Packet.reserved op ∈ ps → OpName.ofOpcode op = none := by
  intro ps op h
  have : op = 0x32 := by simpa [ps] using h
  rw [this]; rfl

theorem witness_ReadStreamIsItsPackets :
    parseStream 4 [0x31, 0x32, 0x43, 0x00] =
      some [.operation .meas, .reserved 0x32, .operation (.setaddr 0x00)] := by decide

theorem witness_ReservedOpcodesAreRefused :
    before.phase = .idle ∧ { before with input := [0x51, 0x31] }.input = 0x51 :: [0x31] ∧
      OpName.ofOpcode 0x51 = none := by decide

theorem witness_PacketLengthIsByOpcode_whole :
    before.phase = .idle ∧
    { before with input := [0x43, 0x80, 0x44] }.input = encode (.setaddr 0x80) ++ [0x44] := by decide

theorem witness_PacketLengthIsByOpcode_incomplete :
    before.phase = .idle ∧ { before with input := [0x30, 1, 2, 3, 4, 5] }.input = 0x30 :: [1, 2, 3, 4, 5] ∧
    OpName.ofOpcode 0x30 = some .frame ∧ [1, 2, 3, 4, (5 : Byte)].length < OpName.frame.format.operandBytes := by
  decide

theorem witness_StepRunsDecodedOperation :
    before.phase = .idle ∧
    decode { before with input := [0x10, 0x31, 0x31, 0x40] }.input = .packet (.crc8 0x31 0x31) [0x40] := by decide

theorem witness_AnswersAreTypedAndRecoverable :
    before.tVal.fmt = before.cfg.fmt ∧ before.hVal.fmt = before.cfg.fmt ∧
    OpAnswers .binary32 .meas .noResult ∧ OpAnswers .binary32 .meas (.result (.b32 1) (.b32 2)) ∧
    OpAnswers .binary64 .gett (.cached true (.b64 1)) ∧ OpAnswers .binary64 .scan (.addresses [1, 127]) ∧
    OpAnswers .binary64 .setaddr .ok ∧ OpAnswers .binary64 .setaddr .refused :=
  ⟨rfl, rfl, .inl rfl, .inr ⟨_, _, rfl, rfl, rfl⟩, ⟨_, _, rfl, rfl⟩, ⟨_, rfl, by decide⟩, .inl rfl, .inr rfl⟩

theorem witness_SingleBitErrorsAreDetected : 0 < 8 ∧ 7 < 8 := by decide

theorem witness_RoundingIsToNearestEven :
    ((1 : ℤ) ≠ 0 ∧ 0 < 3) ∧ ((-16777217 : ℤ) ≠ 0 ∧ 0 < 1) := by decide

theorem witness_EncodingCarriesTheValue :
    (-45 : ℤ) ≠ 0 ∧ 0 < 1 ∧ (2 : ℚ) ^ (-100 : ℤ) ≤ |((-45 : ℤ) : ℚ) / (1 : ℕ)| ∧
      |((-45 : ℤ) : ℚ) / (1 : ℕ)| ≤ 2 ^ (100 : ℤ) := by norm_num

theorem witness_ConversionsStrictlyIncrease :
    (0 : Count).toNat < (1 : Count).toNat ∧ (65534 : Count).toNat < (65535 : Count).toNat := by decide

theorem witness_ConversionsGiveNormalNumbersOrPlusZero : (1 : Count) ≠ 0 ∧ (0 : Count) = 0 := by decide

theorem witness_FrameValidatesConvertsCommits :
    crc8 0x65 0x20 ≠ 0x5C ∧ (crc8 0x65 0x20 = 0x25 ∧ crc8 0x82 0x44 ≠ 0x83) ∧
    (crc8 0x65 0x20 = 0x25 ∧ crc8 0x82 0x44 = 0x82) := by decide +kernel

/-- M2, M3, M5, M4 and M6, M7, M1: one for each clause, the short reads at both ends of their range. -/
theorem witness_MeasRunsOneMeasurementCycle :
    (bus .fail .fail).nextWrite = .fail ∧
    ((bus .ok .fail).nextWrite = .ok ∧ (bus .ok .fail).readScript.head? = some .fail) ∧
    ((bus .ok (.bytes [] (by decide))).nextWrite = .ok ∧ ([] : List Byte).length < 6) ∧
    [0x65, 0x20, 0x25, 0x82, (0x44 : Byte)].length < 6 ∧
    (bus .ok (.bytes [0x65, 0x20, 0x5C, 0x82, 0x44, 0x82] (by decide))).readScript.head? =
      some (.bytes [0x65, 0x20, 0x5C, 0x82, 0x44, 0x82] (by decide)) ∧
    crc8 0x65 0x20 ≠ 0x5C ∧ crc8 0x65 0x20 = 0x25 ∧ crc8 0x82 0x44 ≠ 0x83 ∧ crc8 0x82 0x44 = 0x82 := by decide +kernel

theorem witness_FrameEqualsMeasOnThatFrame :
    let s := bus .ok (.bytes [0x65, 0x20, 0x25, 0x82, 0x44, 0x82] (by decide))
    s.nextWrite = .ok ∧
    s.readScript.head?.getD (Config.freeReadAnswer s.cfg.transport (s.calls + 1)) =
      .bytes [0x65, 0x20, 0x25, 0x82, 0x44, 0x82] (by decide) ∧
    ∃ m, exec .meas s = .next m := ⟨rfl, rfl, _, rfl⟩

/-- For the three statements about any read attempt: a failed one and a successful one. -/
theorem witness_ReadAttempts :
    (∃ t, isReadAttempt .meas = true ∧ exec .meas (bus .fail .fail) = .next t ∧ t.err ≠ .none) ∧
    ∃ t, isReadAttempt (.frame 0x65 0x20 0x25 0x82 0x44 0x82) = true ∧
      exec (.frame 0x65 0x20 0x25 0x82 0x44 0x82) before = .next t ∧ t.err = .none :=
  ⟨⟨_, rfl, rfl, by decide +kernel⟩, ⟨_, rfl, rfl, by decide +kernel⟩⟩

theorem witness_SetaddrSetsOnlyLegalAddresses :
    ((0x00 : Byte) = 0x00 ∨ 0x80 ≤ (0x00 : Byte).toNat) ∧ ((0x80 : Byte) = 0x00 ∨ 0x80 ≤ (0x80 : Byte).toNat) ∧
    ((0xFF : Byte) = 0x00 ∨ 0x80 ≤ (0xFF : Byte).toNat) ∧
    (1 ≤ (0x01 : Byte).toNat ∧ (0x01 : Byte).toNat ≤ 0x7F) ∧
    (1 ≤ (0x7F : Byte).toNat ∧ (0x7F : Byte).toNat ≤ 0x7F) := by decide

theorem witness_GetaddrAnswersTheAddress : before.addr ≠ 0 := by decide

theorem witness_ResetLeavesTheTabulatedValues :
    Config.default.Legal ∧
    Config.Legal { fmt := .binary32, addrInit := 127, probeByte := 0xFF, tConv := 15, transport := 1 } ∧
    (Flt.b64 0).fmt = Config.default.fmt := by decide

/-- An idle state and a busy one, each with the invariant and a next state. -/
theorem witness_EveryStepKeepsTheRegisterInvariant :
    (State.Inv { fresh with input := [0x31] } ∧ ∃ t, step { fresh with input := [0x31] } = .next t) ∧
    (State.Inv { fresh with phase := .wait } ∧ ∃ t, step { fresh with phase := .wait } = .next t) := by
  obtain ⟨a, b, c, d, e, _⟩ := fresh_inv
  exact ⟨⟨⟨a, b, c, d, e, trivial⟩, _, rfl⟩, ⟨⟨a, b, c, d, e, trivial⟩, _, rfl⟩⟩

theorem witness_EveryStepKeepsHistoryAgreement :
    State.FollowsHistory { measured with input := [0x40] } ∧
      ∃ t, step { measured with input := [0x40] } = .next t := by
  refine ⟨⟨rfl, ?_, rfl⟩, _, rfl⟩
  intro t h e
  simpa [measured, lastCommit] using e

theorem witness_CachedValuesAreInRange : measured.Inv ∧ measured.haveFlag = true := by
  obtain ⟨a, b, _, _, _, f⟩ := fresh_inv
  exact ⟨⟨a, b, rfl, rfl, fun _ => ⟨⟨_, rfl⟩, ⟨_, rfl⟩⟩, f⟩, rfl⟩

theorem witness_OnlyTheNamedOperationsWriteRegisters :
    (∃ t, exec (.setaddr 0x45) before = .next t ∧ t.addr ≠ before.addr) ∧
    ∃ t, exec .scan before = .next t ∧ isReadAttempt .scan = false :=
  ⟨⟨_, rfl, by decide⟩, ⟨_, rfl, rfl⟩⟩

theorem witness_PureOperationsAreIdempotent :
    Instr.gett.opName ∈ [OpName.crc8, .chk, .cvtt, .cvth, .gett, .geth, .geterr, .getaddr] := by decide

/-- A result, `NORESULT`, and both kinds of `REFUSED`. -/
theorem witness_OneResponsePerPacket :
    (∃ t, fresh.phase = .idle ∧ step { fresh with input := [0x44] } = .next t) ∧
    (∃ t, step { fresh with input := [0x30, 0, 0, 0, 0, 0, 0] } = .next t ∧ t.lastResponse = some [0x00]) ∧
    (∃ t, step { fresh with input := [0x00] } = .next t ∧ t.lastResponse = some [0xFF]) ∧
    ∃ t, step { fresh with input := [0x43, 0x00] } = .next t ∧ t.lastResponse = some [0xFF] :=
  ⟨⟨_, rfl, rfl⟩, ⟨_, rfl, by decide +kernel⟩, ⟨_, rfl, by decide +kernel⟩, ⟨_, rfl, by decide +kernel⟩⟩

theorem witness_TransportCallsPerOperation :
    (∃ t, exec .meas (bus .ok .fail) = .next t) ∧ (∃ t, exec .meas (bus .fail .fail) = .next t) ∧
    (∃ t, exec .scan before = .next t) ∧ ∃ t, exec .gett before = .next t :=
  ⟨⟨_, rfl⟩, ⟨_, rfl⟩, ⟨_, rfl⟩, ⟨_, rfl⟩⟩

theorem witness_BusyOperationGoesForwardAndEnds :
    before.beginMeas.phase ≠ .idle ∧ (before.beginFrame ⟨0, 0, 0x81, 0, 0, 0x81⟩).phase ≠ .idle ∧
    { before with phase := .commit (.b64 0) (.b64 0) }.phase ≠ .idle := by decide

theorem witness_PhaseStepsReachTheStep : before.phase = .idle := by decide

/-- An idle instance that begins a `MEAS`, and the busy one it becomes, before and at its last phase. -/
theorem witness_EveryPhaseStepKeepsTheInvariants :
    (∃ t, phaseStep { measured with input := [0x31] } = .next t ∧ t.phase ≠ .idle) ∧
    (∃ t, phaseStep measured.beginMeas = .next t) ∧ measured.beginMeas.phase ≠ .idle ∧
    ∃ t, phaseStep { measured with phase := .commit measured.tVal measured.hVal } = .next t ∧ t.phase = .idle :=
  ⟨⟨_, rfl, by decide⟩, ⟨_, rfl⟩, by decide, ⟨_, rfl, rfl⟩⟩

theorem witness_UnwrittenCachesAreUnobservable :
    AgreeButCaches fresh { fresh with tVal := .b64 1, hVal := .b64 2 } ∧ fresh.haveFlag = false ∧
    Instr.meas ≠ .gett ∧ Instr.meas ≠ .geth := ⟨rfl, rfl, by decide, by decide⟩

theorem witness_HostMovesOnlyTowardsIdleInstances :
    fresh.beginMeas.phase ≠ .idle ∧ fresh.phase = .idle := by decide

end Sys2Proof.Tests
end

section
/-! SUPPORT. The contents of the caches at reset (spec 10_state.md R23): a bit pattern of the format, and any of
them. -/

namespace Sys2Proof

@[simp] theorem Flt.ofBits_fmt (f : Fmt) (x : BitVec 64) : (Flt.ofBits f x).fmt = f := by cases f <;> rfl

/-- Every value of a format is one of its bit patterns. -/
theorem Flt.exists_ofBits_eq {f : Fmt} {v : Flt} (h : v.fmt = f) : ∃ x, Flt.ofBits f x = v := by
  subst h
  cases v with
  | b64 bits => exact ⟨bits, rfl⟩
  | b32 bits => exact ⟨bits.setWidth 64, by simp [Flt.ofBits, Flt.fmt]⟩

/-- The parameter values of R6 are within the limits of R23 and R144. -/
theorem Config.default_legal : Config.default.Legal := by decide

namespace Machine

/-- Settles O40: the registers by the definition of `State.create`, the caches by what `Flt.ofBits` can give. -/
theorem resetLeavesTheTabulatedValues : Obligations.ResetLeavesTheTabulatedValues := by
  refine ⟨fun c t h _ => ?_, fun c v w hv hw => ?_, ?_⟩
  · exact ⟨rfl, rfl, rfl, rfl, rfl, rfl, rfl, Flt.ofBits_fmt c.fmt t, Flt.ofBits_fmt c.fmt h⟩
  · obtain ⟨t, ht⟩ := Flt.exists_ofBits_eq hv
    obtain ⟨h, hh⟩ := Flt.exists_ofBits_eq hw
    exact ⟨t, h, ht, hh⟩
  · exact ⟨Config.default, _, _, Config.default_legal, rfl⟩

end Machine
end Sys2Proof
end

section
/-! SUPPORT. The agreement of `HAVE`, the caches and `ERR` with the history (spec 10_state.md R12 to R15): what more events
mean for the registers, then that every operation on the state, every phase, every meaning and every step keeps it. -/

namespace Sys2Proof.Machine

/-! What a longer history says. -/

/-- The last commit of two histories in a row is the later one's, if it has one. -/
theorem lastCommit_append (es fs : List Event) : lastCommit (es ++ fs) = (lastCommit fs).or (lastCommit es) := by
  induction es with
  | nil => simp [lastCommit]
  | cons e es ih => cases hf : lastCommit fs <;> simp [lastCommit, ih, hf]

/-- What a second history leaves in `ERR` begins from what the first one left. -/
theorem lastError_append (err : Err) (es fs : List Event) :
    lastError err (es ++ fs) = lastError (lastError err es) fs := by
  induction es generalizing err with
  | nil => rfl
  | cons e es ih => cases e <;> simp [lastError, ih]

section Operations

variable {s : State}

/-! One rule per operation on the state. -/

/-- The rule behind the others: events without a commit, caches that stay, and in `ERR` what the events say. -/
theorem State.FollowsHistory.extend (hs : s.FollowsHistory) {t : State} (es : List Event)
    (history : t.history = s.history ++ es) (noCommit : lastCommit es = none)
    (err : t.err = lastError s.err es)
    (haveFlag : t.haveFlag = s.haveFlag) (tVal : t.tVal = s.tVal) (hVal : t.hVal = s.hVal) :
    t.FollowsHistory := by
  have commits : lastCommit t.history = lastCommit s.history := by simp [history, lastCommit_append, noCommit]
  refine ⟨?_, ?_, ?_⟩
  · rw [haveFlag, commits, hs.have_iff]
  · rw [tVal, hVal, commits]; exact hs.caches
  · rw [err, history, lastError_append, hs.err]

theorem State.FollowsHistory.withPhase (hs : s.FollowsHistory) (p : Phase) : (s.withPhase p).FollowsHistory :=
  ⟨hs.have_iff, hs.caches, hs.err⟩

theorem State.FollowsHistory.withInput (hs : s.FollowsHistory) (bs : List Byte) :
    (s.withInput bs).FollowsHistory := ⟨hs.have_iff, hs.caches, hs.err⟩

theorem State.FollowsHistory.withAddr (hs : s.FollowsHistory) (a : BusAddr) : (s.withAddr a).FollowsHistory :=
  ⟨hs.have_iff, hs.caches, hs.err⟩

theorem State.FollowsHistory.respond (hs : s.FollowsHistory) (r : Response) : (s.respond r).FollowsHistory :=
  hs.extend [.response r.bytes] rfl rfl rfl rfl rfl rfl

theorem State.FollowsHistory.delay (hs : s.FollowsHistory) (ms : Nat) : (s.delay ms).FollowsHistory :=
  hs.extend [.delay ms] rfl rfl rfl rfl rfl rfl

theorem State.FollowsHistory.transportWrite (hs : s.FollowsHistory) (a : BusAddr) (bs : List Byte) :
    (s.transportWrite a bs).FollowsHistory :=
  hs.extend [.write a bs s.nextWrite] rfl rfl rfl rfl rfl rfl

theorem State.FollowsHistory.transportRead (hs : s.FollowsHistory) (a : BusAddr) (n : Nat) :
    (s.transportRead a n).FollowsHistory :=
  hs.extend [.read a n s.nextRead] rfl rfl rfl rfl rfl rfl

theorem State.FollowsHistory.clearErr (hs : s.FollowsHistory) : s.clearErr.FollowsHistory :=
  hs.extend [.errCleared] rfl rfl rfl rfl rfl rfl

theorem State.FollowsHistory.raise (hs : s.FollowsHistory) (e : Err) : (s.raise e).FollowsHistory :=
  hs.extend [.errSet e, .response [0x00]] (raise_history s e) rfl rfl rfl rfl rfl

/-- The one operation that writes the caches writes its commit into the history with them (R90). -/
theorem State.FollowsHistory.commitAndReturn (hs : s.FollowsHistory) (t h : Flt) :
    (s.commitAndReturn t h).FollowsHistory := by
  rw [commitAndReturn_eq]
  refine ⟨?_, ?_, ?_⟩
  · simp [lastCommit_append, lastCommit]
  · simp [lastCommit_append, lastCommit]
  · simp [lastError_append, lastError, hs.err]

/-! The sequencer. -/

theorem State.FollowsHistory.stepWrite (hs : s.FollowsHistory) : s.stepWrite.FollowsHistory := by
  have written := hs.transportWrite s.addr measurementCommand
  unfold State.stepWrite
  split
  · exact written.withPhase _
  · exact written.raise _

theorem State.FollowsHistory.stepRead (hs : s.FollowsHistory) : s.stepRead.FollowsHistory := by
  have done := hs.transportRead s.addr 6
  obtain ⟨failed, _⟩ | ⟨fb, _, _, filled⟩ := stepRead_cases s
  · rw [failed]; exact done.raise _
  · rw [filled]; exact done.withPhase _

theorem State.FollowsHistory.stepChkT (hs : s.FollowsHistory) (crc : Byte) (fb : Frame) :
    (s.stepChkT crc fb).FollowsHistory := by
  unfold State.stepChkT
  split
  · exact hs.withPhase _
  · exact hs.raise _

theorem State.FollowsHistory.stepChkH (hs : s.FollowsHistory) (crc : Byte) (fb : Frame) (tTmp : Flt) :
    (s.stepChkH crc fb tTmp).FollowsHistory := by
  unfold State.stepChkH
  split
  · exact hs.withPhase _
  · exact hs.raise _

/-- Every phase of an operation keeps the agreement. -/
theorem State.FollowsHistory.advance (hs : s.FollowsHistory) : s.advance.FollowsHistory := by
  cases hp : s.phase with
  | idle => rw [advance_idle s hp]; exact hs
  | write => rw [advance_write s hp]; exact hs.stepWrite
  | wait => rw [advance_wait s hp]; exact (hs.delay _).withPhase _
  | read => rw [advance_read s hp]; exact hs.stepRead
  | chkT crc fb => rw [advance_chkT s crc fb hp]; exact hs.stepChkT crc fb
  | cvtT fb tRaw => rw [advance_cvtT s fb tRaw hp]; exact hs.withPhase _
  | chkH crc fb tTmp => rw [advance_chkH s crc fb tTmp hp]; exact hs.stepChkH crc fb tTmp
  | cvtH tTmp hRaw => rw [advance_cvtH s tTmp hRaw hp]; exact hs.withPhase _
  | commit tTmp hTmp => rw [advance_commit s tTmp hTmp hp]; exact hs.commitAndReturn tTmp hTmp

theorem State.FollowsHistory.advanceN (hs : s.FollowsHistory) (n : Nat) : (s.advanceN n).FollowsHistory := by
  induction n generalizing s with
  | zero => exact hs
  | succ n ih => exact ih hs.advance

theorem State.FollowsHistory.beginMeas (hs : s.FollowsHistory) : s.beginMeas.FollowsHistory :=
  hs.clearErr.withPhase _

theorem State.FollowsHistory.beginFrame (hs : s.FollowsHistory) (fb : Frame) :
    (s.beginFrame fb).FollowsHistory := hs.clearErr.withPhase _

/-- The probes of `SCAN` are transport writes, and no more. -/
theorem State.FollowsHistory.scanFrom (hs : s.FollowsHistory) (as : List BusAddr) :
    (scanFrom as s).2.FollowsHistory := by
  rw [scanFrom_state]
  induction as generalizing s with
  | nil => exact hs
  | cons a as ih => exact ih (hs.transportWrite a _)

/-! Meanings and steps. -/

/-- Every meaning keeps the agreement. -/
theorem State.FollowsHistory.exec (hs : s.FollowsHistory) {i : Instr} {t : State} (h : exec i s = .next t) :
    t.FollowsHistory := by
  cases i with
  | crc8 hi lo => cases h; exact hs.respond _
  | chk hi lo ck => cases h; exact hs.respond _
  | cvtt hi lo => cases h; exact hs.respond _
  | cvth hi lo => cases h; exact hs.respond _
  | frame b0 b1 b2 b3 b4 b5 => cases h; exact (hs.beginFrame _).advanceN phaseCount
  | meas => cases h; exact hs.beginMeas.advanceN phaseCount
  | gett => cases h; exact hs.respond _
  | geth => cases h; exact hs.respond _
  | geterr => cases h; exact hs.respond _
  | setaddr a =>
    cases h
    split
    · exact (hs.withAddr _).respond _
    · exact hs.respond _
  | getaddr => cases h; exact hs.respond _
  | scan => cases h; exact (hs.scanFrom validAddresses).respond _

end Operations

/-- Settles O44, by the cases of a step: a phase of a busy machine, a packet executed, a reserved opcode answered. -/
theorem everyStepKeepsHistoryAgreement : Obligations.EveryStepKeepsHistoryAgreement := by
  intro s t hs h
  obtain ⟨_, rfl⟩ | ⟨_, i, rest, _, hexec⟩ | ⟨_, op, rest, _, rfl⟩ := step_cases s h
  · exact hs.advance
  · exact (hs.withInput rest).exec hexec
  · exact (hs.withInput rest).respond .refused

end Sys2Proof.Machine
end

section
/-! SUPPORT. The decoder's answers (spec 30_encoding.md R47, R49, R50): what each operand form makes of the bytes it is
given, what that says of a whole stream, and the reserved opcodes. -/

namespace Sys2Proof

/-! What an operand form makes of its bytes. -/

theorem takeA_cases (op : Byte) (build : Byte → Instr) (bs : List Byte) :
    (∃ a rest, bs = a :: rest ∧ takeA op build bs = .packet (build a) rest) ∨
    (bs.length < 1 ∧ takeA op build bs = .incomplete op) := by
  match bs with
  | [] => exact .inr ⟨by simp, rfl⟩
  | a :: rest => exact .inl ⟨a, rest, rfl, rfl⟩

theorem takeP_cases (op : Byte) (build : Byte → Byte → Instr) (bs : List Byte) :
    (∃ a b rest, bs = a :: b :: rest ∧ takeP op build bs = .packet (build a b) rest) ∨
    (bs.length < 2 ∧ takeP op build bs = .incomplete op) := by
  match bs with
  | [] | [_] => exact .inr ⟨by simp, rfl⟩
  | a :: b :: rest => exact .inl ⟨a, b, rest, rfl, rfl⟩

theorem takeS_cases (op : Byte) (build : Byte → Byte → Byte → Instr) (bs : List Byte) :
    (∃ a b c rest, bs = a :: b :: c :: rest ∧ takeS op build bs = .packet (build a b c) rest) ∨
    (bs.length < 3 ∧ takeS op build bs = .incomplete op) := by
  match bs with
  | [] | [_] | [_, _] => exact .inr ⟨by simp, rfl⟩
  | a :: b :: c :: rest => exact .inl ⟨a, b, c, rest, rfl, rfl⟩

theorem takeF_cases (op : Byte) (build : Byte → Byte → Byte → Byte → Byte → Byte → Instr) (bs : List Byte) :
    (∃ b0 b1 b2 b3 b4 b5 rest, bs = b0 :: b1 :: b2 :: b3 :: b4 :: b5 :: rest ∧
      takeF op build bs = .packet (build b0 b1 b2 b3 b4 b5) rest) ∨
    (bs.length < 6 ∧ takeF op build bs = .incomplete op) := by
  match bs with
  | [] | [_] | [_, _] | [_, _, _] | [_, _, _, _] | [_, _, _, _, _] => exact .inr ⟨by simp, rfl⟩
  | b0 :: b1 :: b2 :: b3 :: b4 :: b5 :: rest => exact .inl ⟨b0, b1, b2, b3, b4, b5, rest, rfl, rfl⟩

/-- The operands of an operation are all there and are taken off the stream, or the stream ends inside them. -/
theorem decodeOperands_cases (op : Byte) (n : OpName) (bs : List Byte) :
    (∃ i rest, i.opName = n ∧ bs = i.operands ++ rest ∧ decodeOperands op n bs = .packet i rest) ∨
    (bs.length < n.format.operandBytes ∧ decodeOperands op n bs = .incomplete op) := by
  cases n with
  | crc8 => exact (takeP_cases op .crc8 bs).imp_left fun ⟨a, b, rest, e, d⟩ => ⟨.crc8 a b, rest, rfl, e, d⟩
  | chk => exact (takeS_cases op .chk bs).imp_left fun ⟨a, b, c, rest, e, d⟩ => ⟨.chk a b c, rest, rfl, e, d⟩
  | cvtt => exact (takeP_cases op .cvtt bs).imp_left fun ⟨a, b, rest, e, d⟩ => ⟨.cvtt a b, rest, rfl, e, d⟩
  | cvth => exact (takeP_cases op .cvth bs).imp_left fun ⟨a, b, rest, e, d⟩ => ⟨.cvth a b, rest, rfl, e, d⟩
  | frame =>
    exact (takeF_cases op .frame bs).imp_left fun ⟨b0, b1, b2, b3, b4, b5, rest, e, d⟩ =>
      ⟨.frame b0 b1 b2 b3 b4 b5, rest, rfl, e, d⟩
  | meas => exact .inl ⟨.meas, bs, rfl, rfl, rfl⟩
  | gett => exact .inl ⟨.gett, bs, rfl, rfl, rfl⟩
  | geth => exact .inl ⟨.geth, bs, rfl, rfl, rfl⟩
  | geterr => exact .inl ⟨.geterr, bs, rfl, rfl, rfl⟩
  | setaddr => exact (takeA_cases op .setaddr bs).imp_left fun ⟨a, rest, e, d⟩ => ⟨.setaddr a, rest, rfl, e, d⟩
  | getaddr => exact .inl ⟨.getaddr, bs, rfl, rfl, rfl⟩
  | scan => exact .inl ⟨.scan, bs, rfl, rfl, rfl⟩

/-! Whole packets. -/

/-- Every packet has the form of R47. -/
theorem packetForm (i : Instr) : Laws.PacketForm.Statement i := by
  cases i <;> exact ⟨rfl, rfl⟩

theorem length_operands (i : Instr) : i.operands.length = i.opName.format.operandBytes := by
  cases i <;> rfl

/-- What the encoder writes in front of a stream the decoder takes off it. -/
theorem decode_encode_append (i : Instr) (rest : List Byte) : decode (encode i ++ rest) = .packet i rest := by
  rw [encode, List.cons_append, decode_known _ _ _ (ofOpcode_opcode i.opName)]
  cases i <;> rfl

theorem decode_short {op : Byte} {n : OpName} {rest : List Byte} (known : OpName.ofOpcode op = some n)
    (short : rest.length < n.format.operandBytes) : decode (op :: rest) = .incomplete op := by
  rw [decode_known op rest n known]
  obtain ⟨i, tl, rfl, rfl, _⟩ | ⟨_, ends⟩ := decodeOperands_cases op n rest
  · simp only [List.length_append, length_operands] at short
    omega
  · exact ends

theorem eq_encode_append_of_decode {bs : List Byte} {i : Instr} {rest : List Byte}
    (h : decode bs = .packet i rest) : bs = encode i ++ rest := by
  cases bs with
  | nil => cases h
  | cons op tl =>
    cases known : OpName.ofOpcode op with
    | none => rw [decode_reserved op tl known] at h; cases h
    | some n =>
      rw [decode_known op tl n known] at h
      obtain ⟨j, tl', name, rfl, taken⟩ | ⟨_, ends⟩ := decodeOperands_cases op n tl
      · rw [taken] at h; cases h
        rw [encode, name, opcode_of_ofOpcode op n known, List.cons_append]
      · rw [ends] at h; cases h

theorem eq_cons_of_decode_reserved {bs : List Byte} {op : Byte} {rest : List Byte}
    (h : decode bs = .reserved op rest) : bs = op :: rest ∧ OpName.ofOpcode op = none := by
  cases bs with
  | nil => cases h
  | cons op' tl =>
    cases known : OpName.ofOpcode op' with
    | none => rw [decode_reserved op' tl known] at h; cases h; exact ⟨rfl, known⟩
    | some n =>
      rw [decode_known op' tl n known] at h
      obtain ⟨_, _, _, _, taken⟩ | ⟨_, ends⟩ := decodeOperands_cases op' n tl
      · rw [taken] at h; cases h
      · rw [ends] at h; cases h

/-- An opcode byte is reserved when no row of the map has it. -/
theorem ofOpcode_eq_none_iff (op : Byte) : OpName.ofOpcode op = none ↔ op ∉ OpName.all.map OpName.opcode := by
  simp [OpName.ofOpcode, List.find?_eq_none]

namespace Machine

/-- Settles O6: the map's rows are all its opcodes, and an idle machine steps as the decoder says. -/
theorem reservedOpcodesAreRefused : Obligations.ReservedOpcodesAreRefused := by
  refine fun op => ⟨ofOpcode_eq_none_iff op, fun s rest idle stream reserved => ?_⟩
  rw [step_idle s idle, stream, decode_reserved op rest reserved]
  rfl

/-- Settles O1: each packet by the definition of `encode`. -/
theorem packetsAreAsTabulated : Obligations.PacketsAreAsTabulated :=
  ⟨fun _ _ => rfl, fun _ _ _ => rfl, fun _ _ => rfl, fun _ _ => rfl, fun _ _ _ _ _ _ => rfl,
    rfl, rfl, rfl, rfl, fun _ => rfl, rfl, rfl⟩

/-- Settles O7: the form of each packet, then the two answers of the decoder at the head of the stream. -/
theorem packetLengthIsByOpcode : Obligations.PacketLengthIsByOpcode := by
  refine ⟨fun form => ?_, fun i => (packetForm i).symm, fun s i rest idle stream => ?_,
    fun s op n rest idle stream known short => ?_, by decide, by decide⟩
  · cases form <;> rfl
  · rw [step_idle s idle, stream, decode_encode_append]
    rfl
  · rw [step_idle s idle, stream, decode_short known short]

end Machine
end Sys2Proof
end

section
/-! SUPPORT. The byte forms of the answers (spec 30_encoding.md R53 to R55): the three status bytes, and that among the
answers of one operation the bytes determine the answer. -/

namespace Sys2Proof.Machine

/-! The parts of a response. -/

@[simp] theorem length_bytesBE (n : Nat) {w : Nat} (x : BitVec w) : (bytesBE n x).length = n := by
  simp [bytesBE]

/-- Bytes that reach over the whole width determine the bits: bit `i` stands in byte `i / 8` from the end. -/
theorem bytesBE_injective {n w : Nat} (hw : w ≤ 8 * n) : Function.Injective (bytesBE n (w := w)) := by
  intro x y h
  have byte_eq : ∀ k < n, x.extractLsb' (8 * (n - 1 - k)) 8 = y.extractLsb' (8 * (n - 1 - k)) 8 := by
    simpa [bytesBE] using h
  refine BitVec.eq_of_getLsbD_eq fun i hi => ?_
  have place : 8 * (n - 1 - (n - 1 - i / 8)) + i % 8 = i := by omega
  have bit_eq := congrArg (·.getLsbD (i % 8)) (byte_eq (n - 1 - i / 8) (by omega))
  simpa [BitVec.getLsbD_extractLsb', Nat.mod_lt, place] using bit_eq

/-- The number of bytes of a float depends on its format alone. -/
theorem length_floatBytes_congr {v w : Flt} (h : v.fmt = w.fmt) :
    (floatBytes v).length = (floatBytes w).length := by
  cases v <;> cases w <;> simp_all [floatBytes, Flt.fmt]

theorem floatBytes_injective : Function.Injective floatBytes := by
  intro v w h
  have len := congrArg List.length h
  cases v with
  | b64 x =>
    cases w with
    | b64 y => exact congrArg Flt.b64 (bytesBE_injective (by omega) h)
    | b32 y => simp [floatBytes] at len
  | b32 x =>
    cases w with
    | b64 y => simp [floatBytes] at len
    | b32 y => exact congrArg Flt.b32 (bytesBE_injective (by omega) h)

/-- The byte of an address gives the address back. -/
theorem byteOfAddress_injective : Function.Injective byteOfAddress :=
  Function.LeftInverse.injective (g := addressOfByte) fun a => by simp [addressOfByte, byteOfAddress]

theorem verdictByte_injective : Function.Injective verdictByte := by unfold Function.Injective; decide

theorem haveByte_injective : Function.Injective haveByte := by unfold Function.Injective; decide

/-- The five codes of R12 differ, as bytes too. -/
theorem codeByte_injective : Function.Injective fun e : Err => (e.code.setWidth 8 : Byte) := by
  intro e e' h
  cases e <;> cases e' <;> simp_all [Err.code]

/-! The status byte. -/

theorem Response.bytes_status (r : Response) : r.bytes.head? = some 0x01 ∨ r.bytes = [0x00] ∨ r.bytes = [0xFF] := by
  cases r <;> simp [Response.bytes]

theorem Response.bytes_eq_noResult_iff (r : Response) : r.bytes = [0x00] ↔ r = .noResult := by
  cases r <;> simp [Response.bytes]

theorem Response.bytes_eq_refused_iff (r : Response) : r.bytes = [0xFF] ↔ r = .refused := by
  cases r <;> simp [Response.bytes]

/-! Which operation gives which answer. -/

theorem isReadAttempt_of_noResult {f : Fmt} {i : Instr} (h : OpAnswers f i.opName .noResult) :
    isReadAttempt i = true := by
  cases i <;> simp_all [OpAnswers, Instr.opName, isReadAttempt]

theorem eq_setaddr_of_refused {f : Fmt} {i : Instr} (h : OpAnswers f i.opName .refused) :
    ∃ a, i = .setaddr a := by
  cases i <;> simp_all [OpAnswers, Instr.opName]

/-! Equal bytes, equal answers. -/

/-- A read attempt answers a result of two floats of equal length, or `NORESULT`. -/
theorem attemptAnswers_injOn {f : Fmt} {r r' : Response} (hr : OpAnswers f .meas r) (hr' : OpAnswers f .meas r')
    (h : r.bytes = r'.bytes) : r = r' := by
  obtain rfl | ⟨t, u, rfl, ht, _⟩ := hr
  · exact ((Response.bytes_eq_noResult_iff r').1 h.symm).symm
  · obtain rfl | ⟨t', u', rfl, ht', _⟩ := hr'
    · exact (Response.bytes_eq_noResult_iff _).1 h
    · obtain ⟨eqT, eqU⟩ := List.append_inj (List.cons.inj h).2 (length_floatBytes_congr (ht.trans ht'.symm))
      rw [floatBytes_injective eqT, floatBytes_injective eqU]

theorem valueBytes_injective : Function.Injective fun v => (Response.value v).bytes :=
  fun _ _ h => floatBytes_injective (List.cons.inj h).2

theorem cachedBytes_injective {b b' : Bool} {v v' : Flt}
    (h : (Response.cached b v).bytes = (Response.cached b' v').bytes) : b = b' ∧ v = v' := by
  obtain ⟨eqB, eqV⟩ := List.cons.inj (List.cons.inj h).2
  exact ⟨haveByte_injective eqB, floatBytes_injective eqV⟩

/-- Among the answers of one operation the bytes determine the answer (R55). -/
theorem opAnswers_injOn (f : Fmt) (n : OpName) (r r' : Response) (hr : OpAnswers f n r) (hr' : OpAnswers f n r')
    (h : r.bytes = r'.bytes) : r = r' := by
  cases n with
  | crc8 =>
    rcases hr, hr' with ⟨⟨c, rfl⟩, ⟨c', rfl⟩⟩
    simpa [Response.bytes] using h
  | chk =>
    rcases hr, hr' with ⟨⟨m, rfl⟩, ⟨m', rfl⟩⟩
    simpa [Response.bytes, verdictByte_injective.eq_iff] using h
  | cvtt =>
    rcases hr, hr' with ⟨⟨v, rfl, _⟩, ⟨v', rfl, _⟩⟩
    rw [valueBytes_injective h]
  | cvth =>
    rcases hr, hr' with ⟨⟨v, rfl, _⟩, ⟨v', rfl, _⟩⟩
    rw [valueBytes_injective h]
  | frame => exact attemptAnswers_injOn hr hr' h
  | meas => exact attemptAnswers_injOn hr hr' h
  | gett =>
    rcases hr, hr' with ⟨⟨b, v, rfl, _⟩, ⟨b', v', rfl, _⟩⟩
    obtain ⟨rfl, rfl⟩ := cachedBytes_injective h
    rfl
  | geth =>
    rcases hr, hr' with ⟨⟨b, v, rfl, _⟩, ⟨b', v', rfl, _⟩⟩
    obtain ⟨rfl, rfl⟩ := cachedBytes_injective h
    rfl
  | geterr =>
    rcases hr, hr' with ⟨⟨e, rfl⟩, ⟨e', rfl⟩⟩
    exact congrArg Response.classification (codeByte_injective (by simpa [Response.bytes] using h))
  | setaddr =>
    obtain rfl | rfl := hr
    · obtain rfl | rfl := hr'
      · rfl
      · exact (Response.bytes_eq_refused_iff _).1 h
    · exact ((Response.bytes_eq_refused_iff r').1 h.symm).symm
  | getaddr =>
    rcases hr, hr' with ⟨⟨a, rfl⟩, ⟨a', rfl⟩⟩
    simpa [Response.bytes, byteOfAddress_injective.eq_iff] using h
  | scan =>
    rcases hr, hr' with ⟨⟨as, rfl, _⟩, ⟨as', rfl, _⟩⟩
    rw [byteOfAddress_injective.list_map (List.cons.inj (List.cons.inj h).2).2]

end Sys2Proof.Machine
end

section
/-! SUPPORT. How an operation ends (spec 30_encoding.md R53, R55): the closed form of a read attempt (43_measure.md R86,
R88), then that every meaning works without a response and ends with one, an answer of its operation. -/

namespace Sys2Proof.Machine

/-! A read attempt from its first phase to its last. -/

/-- Steps 6 to 10 (R86) on a filled frame buffer: both checks, both conversions, the commit. -/
def State.processFrame (fb : Frame) (s : State) : State :=
  if crc8 fb.tHi fb.tLo = fb.tCk then
    if crc8 fb.hHi fb.hLo = fb.hCk then
      s.commitAndReturn (cvtT s.cfg.fmt (raw fb.tHi fb.tLo)) (cvtH s.cfg.fmt (raw fb.hHi fb.hLo))
    else s.raise .checksumFailedHumidity
  else s.raise .checksumFailedTemperature

/-- `MEAS` after the command write of its step 2. -/
def State.commandWritten (s : State) : State := s.clearErr.transportWrite s.addr measurementCommand

/-- `MEAS` after the wait of its step 3. -/
def State.conversionAwaited (s : State) : State := s.commandWritten.delay s.cfg.tConv

/-- `MEAS` after the frame read of its step 4. -/
def State.frameRead (s : State) : State := s.conversionAwaited.transportRead s.addr 6

section Attempts

variable (s : State)

theorem execFrame_eq (b0 b1 b2 b3 b4 b5 : Byte) :
    exec (.frame b0 b1 b2 b3 b4 b5) s = .next (s.clearErr.processFrame ⟨b0, b1, b2, b3, b4, b5⟩) :=
  congrArg Host.Outcome.next (finish_beginFrame s ⟨b0, b1, b2, b3, b4, b5⟩)

/-- Steps 4 to 10 (R88): the read fails, or it fills the frame buffer and the frame is processed. -/
theorem advanceN_read (h : s.phase = .read) :
    (State.advanceN 6 s = (s.transportRead s.addr 6).raise .transportReadFailed ∧
      (s.nextRead = .fail ∨ ∃ bs short, s.nextRead = .bytes bs short ∧ bs.length ≠ 6)) ∨
    ∃ fb short, s.nextRead = .bytes [fb.tHi, fb.tLo, fb.tCk, fb.hHi, fb.hLo, fb.hCk] short ∧
      State.advanceN 6 s = (s.transportRead s.addr 6).processFrame fb := by
  have first : State.advanceN 6 s = State.advanceN 5 s.stepRead :=
    congrArg (State.advanceN 5) (advance_read s h)
  rw [first]
  obtain ⟨failed, why⟩ | ⟨fb, short, answered, filled⟩ := stepRead_cases s
  · exact .inl ⟨by rw [failed, advanceN_idle _ _ (raise_fields _ _).2.1], why⟩
  · exact .inr ⟨fb, short, answered, by rw [filled]; exact advanceN_chkT _ 0 fb rfl⟩

/-- `MEAS` in closed form (R88): the write fails, the read fails, or a frame is read and processed. -/
theorem finish_beginMeas_cases :
    (s.nextWrite = .fail ∧ s.beginMeas.finish = s.commandWritten.raise .transportWriteFailed) ∨
    (s.nextWrite = .ok ∧
      (s.conversionAwaited.nextRead = .fail ∨
        ∃ bs short, s.conversionAwaited.nextRead = .bytes bs short ∧ bs.length ≠ 6) ∧
      s.beginMeas.finish = s.frameRead.raise .transportReadFailed) ∨
    ∃ fb short, s.nextWrite = .ok ∧
      s.conversionAwaited.nextRead = .bytes [fb.tHi, fb.tLo, fb.tCk, fb.hHi, fb.hLo, fb.hCk] short ∧
      s.beginMeas.finish = s.frameRead.processFrame fb := by
  have first : s.beginMeas.finish = State.advanceN 7 s.beginMeas.stepWrite := rfl
  cases hw : s.nextWrite with
  | fail =>
    have failed : s.beginMeas.stepWrite = s.commandWritten.raise .transportWriteFailed := by
      have : s.beginMeas.nextWrite = .fail := hw
      simp only [State.stepWrite, this]; rfl
    exact .inl ⟨rfl, by rw [first, failed, advanceN_idle _ _ (raise_fields _ _).2.1]⟩
  | ok =>
    have written : s.beginMeas.stepWrite = s.commandWritten.withPhase .wait := by
      have : s.beginMeas.nextWrite = .ok := hw
      simp only [State.stepWrite, this]; rfl
    have awaited : s.beginMeas.finish = State.advanceN 6 (s.conversionAwaited.withPhase .read) := by
      rw [first, written]; rfl
    rw [awaited]
    obtain ⟨failed, why⟩ | ⟨fb, short, answered, done⟩ := advanceN_read (s.conversionAwaited.withPhase .read) rfl
    · exact .inr (.inl ⟨rfl, why, failed⟩)
    · refine .inr (.inr ⟨fb, short, rfl, answered, done.trans ?_⟩)
      rfl

end Attempts

/-! Work before the response. -/

/-- `u` comes from `s` by work in which no response was sent, no command byte consumed and no phase left open. -/
structure State.WorksTo (s u : State) : Prop where
  input : u.input = s.input
  idle : s.phase = .idle → u.phase = .idle
  history : ∃ events, u.history = s.history ++ events ∧ ∀ e ∈ events, e.isResponse = false

section Work

variable {s u : State}

theorem State.WorksTo.refl (s : State) : s.WorksTo s := ⟨rfl, id, [], by simp⟩

/-- The rule behind the others: the events of one more operation on the state. -/
theorem State.WorksTo.extend (hu : s.WorksTo u) {v : State} (es : List Event)
    (history : v.history = u.history ++ es) (silent : ∀ e ∈ es, e.isResponse = false)
    (input : v.input = u.input) (idle : u.phase = .idle → v.phase = .idle) : s.WorksTo v := by
  obtain ⟨input', idle', events, history', silent'⟩ := hu
  refine ⟨input.trans input', idle ∘ idle', events ++ es, ?_, ?_⟩
  · rw [history, history', List.append_assoc]
  · exact List.forall_mem_append.2 ⟨silent', silent⟩

theorem State.WorksTo.logEvent (hu : s.WorksTo u) {e : Event} (he : e.isResponse = false) :
    s.WorksTo (u.logEvent e) := hu.extend [e] rfl (by simpa using he) rfl id

theorem State.WorksTo.withAddr (hu : s.WorksTo u) (a : BusAddr) : s.WorksTo (u.withAddr a) :=
  ⟨hu.input, hu.idle, hu.history⟩

theorem State.WorksTo.withErr (hu : s.WorksTo u) (e : Err) : s.WorksTo (u.withErr e) :=
  ⟨hu.input, hu.idle, hu.history⟩

theorem State.WorksTo.withCache (hu : s.WorksTo u) (t h : Flt) : s.WorksTo (u.withCache t h) :=
  ⟨hu.input, hu.idle, hu.history⟩

theorem State.WorksTo.withPhase_idle (hu : s.WorksTo u) : s.WorksTo (u.withPhase .idle) :=
  ⟨hu.input, fun _ => rfl, hu.history⟩

theorem State.WorksTo.clearErr (hu : s.WorksTo u) : s.WorksTo u.clearErr := (hu.withErr _).logEvent rfl

theorem State.WorksTo.delay (hu : s.WorksTo u) (ms : Nat) : s.WorksTo (u.delay ms) := hu.logEvent rfl

theorem State.WorksTo.transportWrite (hu : s.WorksTo u) (a : BusAddr) (bs : List Byte) :
    s.WorksTo (u.transportWrite a bs) := hu.extend [.write a bs u.nextWrite] rfl (by simp [Event.isResponse]) rfl id

theorem State.WorksTo.transportRead (hu : s.WorksTo u) (a : BusAddr) (n : Nat) :
    s.WorksTo (u.transportRead a n) := hu.extend [.read a n u.nextRead] rfl (by simp [Event.isResponse]) rfl id

theorem State.WorksTo.scanFrom (hu : s.WorksTo u) (as : List BusAddr) : s.WorksTo (scanFrom as u).2 := by
  rw [scanFrom_state]
  induction as generalizing u with
  | nil => exact hu
  | cons a as ih => exact ih (hu.transportWrite a _)

theorem worksTo_commandWritten (s : State) : s.WorksTo s.commandWritten :=
  (State.WorksTo.refl s).clearErr.transportWrite _ _

theorem worksTo_frameRead (s : State) : s.WorksTo s.frameRead :=
  ((worksTo_commandWritten s).delay _).transportRead _ _

end Work

/-! The response at the end. -/

/-- `t` comes from `s` by work and then one response, an answer of the operation `n` with floats in format `f`. -/
def State.CompletesTo (f : Fmt) (n : OpName) (s t : State) : Prop :=
  ∃ u r, s.WorksTo u ∧ t = u.respond r ∧ OpAnswers f n r

section Completion

variable {f : Fmt} {n : OpName} {s u : State}

theorem State.WorksTo.respond (hu : s.WorksTo u) {r : Response} (typed : OpAnswers f n r) :
    State.CompletesTo f n s (u.respond r) := ⟨u, r, hu, rfl, typed⟩

theorem State.WorksTo.raise (hu : s.WorksTo u) (e : Err) : State.CompletesTo f .meas s (u.raise e) :=
  ((hu.withErr e).withPhase_idle.logEvent rfl).respond (.inl rfl)

theorem State.WorksTo.commitAndReturn (hu : s.WorksTo u) {t h : Flt} (ht : t.fmt = f) (hh : h.fmt = f) :
    State.CompletesTo f .meas s (u.commitAndReturn t h) :=
  ((hu.withCache t h).withPhase_idle.logEvent rfl).respond (.inr ⟨t, h, rfl, ht, hh⟩)

@[simp] theorem Binary.encode_fmt (f : Fmt) (x : Binary) : (x.encode f).fmt = f := by cases f <;> rfl

@[simp] theorem cvtT_fmt (f : Fmt) (c : Count) : (cvtT f c).fmt = f := Binary.encode_fmt f _

@[simp] theorem cvtH_fmt (f : Fmt) (c : Count) : (cvtH f c).fmt = f := Binary.encode_fmt f _

theorem State.WorksTo.processFrame (hu : s.WorksTo u) (fb : Frame) :
    State.CompletesTo u.cfg.fmt .meas s (u.processFrame fb) := by
  unfold State.processFrame
  split
  · split
    · exact hu.commitAndReturn (cvtT_fmt _ _) (cvtH_fmt _ _)
    · exact hu.raise _
  · exact hu.raise _

/-- The format of the floats an operation answers: `FMT`, or that of the cache it reads. -/
def answerFormat (i : Instr) (s : State) : Fmt :=
  match i with
  | .gett => s.tVal.fmt
  | .geth => s.hVal.fmt
  | _ => s.cfg.fmt

theorem answerFormat_eq {i : Instr} (ht : s.tVal.fmt = s.cfg.fmt) (hh : s.hVal.fmt = s.cfg.fmt) :
    answerFormat i s = s.cfg.fmt := by cases i <;> simp [answerFormat, ht, hh]

theorem length_scanFrom_le (as : List BusAddr) (s : State) : (scanFrom as s).1.length ≤ as.length := by
  induction as generalizing s with
  | nil => rfl
  | cons a as ih =>
    have := ih (s.probe a)
    simp only [scanFrom, List.length_cons]
    split
    · simpa using this
    · omega

/-- `SETADDR` takes a legal address, or refuses and does no work (R103). -/
theorem execSetaddr_cases (a : Byte) (s : State) :
    (addressByteLegal a = true ∧ exec (.setaddr a) s = .next ((s.withAddr (addressOfByte a)).respond .ok)) ∨
    (addressByteLegal a = false ∧ exec (.setaddr a) s = .next (s.respond .refused)) := by
  cases legal : addressByteLegal a <;> simp [exec, execSetaddr, legal]

/-- Every meaning completes: work, then one response, an answer of its operation. -/
theorem exec_completesTo (i : Instr) {t : State} (h : exec i s = .next t) :
    State.CompletesTo (answerFormat i s) i.opName s t := by
  have start := State.WorksTo.refl s
  cases i with
  | crc8 hi lo => cases h; exact start.respond ⟨_, rfl⟩
  | chk hi lo ck => cases h; exact start.respond ⟨_, rfl⟩
  | cvtt hi lo => cases h; exact start.respond ⟨_, rfl, cvtT_fmt _ _⟩
  | cvth hi lo => cases h; exact start.respond ⟨_, rfl, cvtH_fmt _ _⟩
  | frame b0 b1 b2 b3 b4 b5 =>
    rw [execFrame_eq] at h; cases h
    exact start.clearErr.processFrame _
  | meas =>
    cases h
    obtain ⟨_, ends⟩ | ⟨_, _, ends⟩ | ⟨fb, _, _, _, ends⟩ := finish_beginMeas_cases s
    · rw [ends]; exact (worksTo_commandWritten s).raise _
    · rw [ends]; exact (worksTo_frameRead s).raise _
    · rw [ends]; exact (worksTo_frameRead s).processFrame fb
  | gett => cases h; exact start.respond ⟨_, _, rfl, rfl⟩
  | geth => cases h; exact start.respond ⟨_, _, rfl, rfl⟩
  | geterr => cases h; exact start.respond ⟨_, rfl⟩
  | setaddr a =>
    obtain ⟨_, ends⟩ | ⟨_, ends⟩ := execSetaddr_cases a s
    · rw [ends] at h; cases h; exact (start.withAddr _).respond (.inl rfl)
    · rw [ends] at h; cases h; exact start.respond (.inr rfl)
  | getaddr => cases h; exact start.respond ⟨_, rfl⟩
  | scan => cases h; exact (start.scanFrom _).respond ⟨_, rfl, length_scanFrom_le validAddresses s⟩

/-- Only an illegal `SETADDR` is refused by its meaning, and then nothing but the response has happened (R51). -/
theorem exec_refused {i : Instr} (typed : OpAnswers f i.opName .refused)
    (h : exec i s = .next (u.respond .refused)) :
    (∃ a, i = .setaddr a ∧ addressByteLegal a = false) ∧ u.respond .refused = s.respond .refused := by
  obtain ⟨a, rfl⟩ := eq_setaddr_of_refused typed
  obtain ⟨_, ends⟩ | ⟨illegal, ends⟩ := execSetaddr_cases a s
  · rw [ends] at h
    have sent := congrArg State.lastResponse (Host.Outcome.next.inj h)
    simp [Response.bytes] at sent
  · rw [ends] at h
    exact ⟨⟨a, rfl, illegal⟩, (Host.Outcome.next.inj h).symm⟩

end Completion

/-- Settles O11: the answer each meaning completes with, and the recovery of an answer from its bytes. -/
theorem answersAreTypedAndRecoverable : Obligations.AnswersAreTypedAndRecoverable := by
  refine ⟨fun i s ht hh => ?_, opAnswers_injOn⟩
  obtain ⟨t, h⟩ := exec_answers s i
  obtain ⟨u, r, _, rfl, typed⟩ := exec_completesTo i h
  exact ⟨r, u.respond r, h, answerFormat_eq ht hh ▸ typed, lastResponse_respond u r⟩

/-- Settles O48, by the two kinds of packet an idle machine can find. -/
theorem oneResponsePerPacket : Obligations.OneResponsePerPacket := by
  intro s t idle h
  obtain ⟨busy, _⟩ | ⟨_, i, rest, found, hexec⟩ | ⟨_, op, rest, found, rfl⟩ := step_cases s h
  · exact absurd idle busy
  · obtain ⟨u, r, ⟨input, stays, events, history, silent⟩, rfl, typed⟩ := exec_completesTo i hexec
    refine ⟨stays idle, .operation i, events, r, ?_, by simp, ?_, silent, Response.bytes_status r, ?_, ?_⟩
    · rw [eq_encode_append_of_decode found, respond_eq, input]; rfl
    · rw [respond_eq, history]; rfl
    · intro noResult
      rw [(Response.bytes_eq_noResult_iff r).1 noResult] at typed
      exact ⟨i, rfl, isReadAttempt_of_noResult typed⟩
    · intro refused
      obtain rfl := (Response.bytes_eq_refused_iff r).1 refused
      obtain ⟨⟨a, rfl, illegal⟩, same⟩ := exec_refused typed hexec
      exact ⟨.inr ⟨a, rfl, illegal⟩, by rw [same]; rfl⟩
  · obtain ⟨stream, reserved⟩ := eq_cons_of_decode_reserved found
    refine ⟨idle, .reserved op, [], .refused, stream, ?_, ?_, by simp, Response.bytes_status _, ?_, ?_⟩
    · rintro _ ⟨⟩; exact reserved
    · simp [State.answerReserved, State.respond]
    · intro noResult
      cases (Response.bytes_eq_noResult_iff _).1 noResult
    · exact fun _ => ⟨.inl ⟨op, rfl⟩, rfl⟩

end Sys2Proof.Machine
end

section
/-! SUPPORT. The shift of `crc_step` on unbounded integers (spec 41_checksum.md R61), and its agreement with `crcShift`. -/

namespace Sys2Proof.Machine

/-- A map that carries `f` to `g` carries the repetition of `f` to that of `g`. -/
theorem repeat_semiconj {α β : Type} {φ : α → β} {f : α → α} {g : β → β} (h : Function.Semiconj φ f g) (n : Nat) :
    Function.Semiconj φ (Nat.repeat f n) (Nat.repeat g n) := by
  induction n with
  | zero => exact Function.Semiconj.id_right
  | succ n ih => exact h.comp_right ih

/-- One iteration of R61 as its pseudocode has it: an unbounded integer, masked to 8 bits after the XOR. -/
def maskedShift (n : Nat) : Nat :=
  if n.testBit 7 then ((n <<< 1) ^^^ 0x31) &&& 0xFF else (n <<< 1) &&& 0xFF

/-- The mask after the XOR drops the same bit as the 8-bit shift before it, since 0x31 has no bit above bit 7. -/
theorem toNat_crcShift (c : Byte) : (crcShift c).toNat = maskedShift c.toNat := by
  have mask (n : Nat) : n &&& 0xFF = n % 2 ^ 8 := Nat.and_two_pow_sub_one_eq_mod n 8
  have top : c.msb = c.toNat.testBit 7 := BitVec.msb_eq_getLsbD_last c
  cases bit : c.toNat.testBit 7
  · simp [crcShift, maskedShift, top, bit, mask]
  · simp [crcShift, maskedShift, top, bit, mask, Nat.xor_mod_two_pow (n := 8)]

theorem toNat_crcStep (c : Byte) : (crcStep c).toNat = Nat.repeat maskedShift 8 c.toNat :=
  repeat_semiconj toNat_crcShift 8 c

/-- Settles O12: eight iterations on bytes follow eight on integers; `crc8` is R62's two passes by definition. -/
theorem crcIsTheMaskedShiftLoop : Obligations.CrcIsTheMaskedShiftLoop :=
  ⟨toNat_crcStep, fun _ _ => rfl⟩

end Sys2Proof.Machine
end

section
/-! SUPPORT. The raw count (spec 42_convert.md R70) as a number. -/

namespace Sys2Proof.Machine

theorem toNat_raw_eq_or (h l : Byte) : (raw h l).toNat = (h.toNat <<< 8) ||| l.toNat := by
  have fits : h.toNat <<< 8 < 65536 := by rw [Nat.shiftLeft_eq]; omega
  have high : h.toNat < 65536 := by omega
  have low : l.toNat < 65536 := by omega
  simp [raw, Nat.mod_eq_of_lt, fits, high, low]

theorem toNat_raw (h l : Byte) : (raw h l).toNat = 256 * h.toNat + l.toNat := by
  rw [toNat_raw_eq_or, ← Nat.shiftLeft_add_eq_or_of_lt l.isLt, Nat.shiftLeft_eq, Nat.mul_comm]

/-- Settles O18: the shifted high byte fits 16 bits, and the OR with the low byte is a sum. -/
theorem rawCountIsBigEndianUnsigned : Obligations.RawCountIsBigEndianUnsigned :=
  fun h l => ⟨toNat_raw h l, Nat.le_of_lt_succ (raw h l).isLt, toNat_raw_eq_or h l⟩

end Sys2Proof.Machine
end

section
/-! SUPPORT. Rounding to a format (spec 42_convert.md R74): the binary exponent, the nearest integer, and the parts of
`rn` in terms of the exact quotient. -/

namespace Sys2Proof.Machine

/-- A power of two as the model holds it: a positive exponent in the numerator, a negative one in the denominator. -/
theorem two_zpow_eq_div (k : ℤ) : (2 : ℚ) ^ k = 2 ^ k.toNat / 2 ^ (-k).toNat := by
  rw [← zpow_natCast, ← zpow_natCast, ← zpow_sub₀ two_ne_zero, Int.toNat_sub_toNat_neg]

theorem two_zpow_le_div_iff {num den : ℕ} (hden : 0 < den) (e : ℤ) :
    (2 : ℚ) ^ e ≤ num / den ↔ den * 2 ^ e.toNat ≤ num * 2 ^ (-e).toNat := by
  rw [two_zpow_eq_div, div_le_div_iff₀ (by positivity) (by positivity), mul_comm]
  norm_cast

/-- The quotient is within a factor of two of the power that the two lengths give. -/
theorem div_bounds_of_log2 {num den : ℕ} (hnum : num ≠ 0) (hden : den ≠ 0) :
    (2 : ℚ) ^ ((num.log2 : ℤ) - den.log2 - 1) ≤ num / den ∧
      (num : ℚ) / den < 2 ^ ((num.log2 : ℤ) - den.log2 + 1) := by
  have numLow : (2 : ℚ) ^ num.log2 ≤ num := mod_cast Nat.log2_self_le hnum
  have numHigh : (num : ℚ) < 2 ^ (num.log2 + 1) := mod_cast Nat.lt_log2_self
  have denLow : (2 : ℚ) ^ den.log2 ≤ den := mod_cast Nat.log2_self_le hden
  have denHigh : (den : ℚ) < 2 ^ (den.log2 + 1) := mod_cast Nat.lt_log2_self
  constructor
  · calc (2 : ℚ) ^ ((num.log2 : ℤ) - den.log2 - 1)
        = 2 ^ num.log2 / 2 ^ (den.log2 + 1) := by
          rw [sub_sub, zpow_sub₀ two_ne_zero]; norm_cast
      _ ≤ num / den := by gcongr
  · calc (num : ℚ) / den < 2 ^ (num.log2 + 1) / 2 ^ den.log2 := by gcongr
      _ = 2 ^ ((num.log2 : ℤ) - den.log2 + 1) := by
          rw [sub_add_eq_add_sub, zpow_sub₀ two_ne_zero]; norm_cast

theorem floorLog2_bounds {num den : ℕ} (hnum : num ≠ 0) (hden : den ≠ 0) :
    (2 : ℚ) ^ floorLog2 num den ≤ num / den ∧ (num : ℚ) / den < 2 ^ (floorLog2 num den + 1) := by
  obtain ⟨low, high⟩ := div_bounds_of_log2 hnum hden
  unfold floorLog2
  simp only [← two_zpow_le_div_iff (Nat.pos_of_ne_zero hden)]
  split
  case isTrue reached => exact ⟨reached, high⟩
  case isFalse missed => exact ⟨low, by simpa using missed⟩

/-- `rne` is within one half, and a tie goes to the even neighbour. -/
theorem rne_nearest (num : ℕ) {den : ℕ} (hden : 0 < den) :
    |(num : ℚ) / den - rne num den| ≤ 1 / 2 ∧ (|(num : ℚ) / den - rne num den| = 1 / 2 → Even (rne num den)) := by
  have hden' : (0 : ℚ) < den := mod_cast hden
  have divMod : (num : ℚ) = den * (num / den : ℕ) + (num % den : ℕ) := mod_cast (Nat.div_add_mod num den).symm
  have below : num % den < den := Nat.mod_lt _ hden
  unfold rne
  generalize num / den = q at *
  generalize num % den = r at *
  have quotient : (num : ℚ) / den = q + r / den := by rw [divMod]; field_simp
  simp only [quotient]
  split
  case isTrue down =>
    have half : (r : ℚ) / den ≤ 1 / 2 := by
      rw [div_le_div_iff₀ hden' two_pos]; norm_cast; omega
    rw [add_sub_cancel_left, abs_of_nonneg (by positivity)]
    refine ⟨half, fun tie => ?_⟩
    rw [div_eq_div_iff hden'.ne' two_ne_zero] at tie
    norm_cast at tie
    exact Nat.even_iff.2 (by omega)
  case isFalse up =>
    have half : (1 : ℚ) / 2 ≤ r / den := by
      rw [div_le_div_iff₀ two_pos hden']; norm_cast; omega
    have whole : (r : ℚ) / den ≤ 1 := by
      rw [div_le_one hden']; exact_mod_cast below.le
    have distance : |(q : ℚ) + r / den - (q + 1 : ℕ)| = 1 - r / den := by
      rw [abs_sub_comm, abs_of_nonneg (by push_cast; linarith)]; push_cast; ring
    rw [distance]
    refine ⟨by linarith, fun tie => ?_⟩
    have tie' : (r : ℚ) / den = 1 / 2 := by linarith
    rw [div_eq_div_iff hden'.ne' two_ne_zero] at tie'
    norm_cast at tie'
    exact Nat.even_iff.2 (by omega)

@[simp] theorem rn_zero (f : Fmt) (den : ℕ) : rn f 0 den = ⟨false, 0, 0⟩ := rfl

theorem Binary.value_eq (x : Binary) : x.value = (if x.neg then -1 else 1) * 2 ^ x.exp * x.mant := by
  cases h : x.neg <;> simp [Binary.value, Binary.signed, h, mul_comm]

theorem abs_quotient (num : ℤ) (den : ℕ) : |(num : ℚ) / den| = num.natAbs / den := by
  rw [abs_div, Nat.abs_cast, Nat.cast_natAbs, Int.cast_abs]

section Rounded

variable {f : Fmt} {num : ℤ} {den : ℕ}

theorem rn_neg (h : num ≠ 0) : (rn f num den).neg = decide (num < 0) := by simp [rn, h]

theorem rn_exp (h : num ≠ 0) : (rn f num den).exp = floorLog2 num.natAbs den - precision f + 1 := by simp [rn, h]

theorem rn_mant (h : num ≠ 0) :
    (rn f num den).mant =
      rne (num.natAbs * 2 ^ (-(rn f num den).exp).toNat) (den * 2 ^ (rn f num den).exp.toNat) := by
  simp [rn, h]

/-- The power of two of R74: `e = floor(log2 |x|)`. -/
theorem rn_exp_bounds (h : num ≠ 0) (hden : 0 < den) :
    (2 : ℚ) ^ floorLog2 num.natAbs den ≤ |(num : ℚ) / den| ∧
      |(num : ℚ) / den| < 2 ^ (floorLog2 num.natAbs den + 1) := by
  rw [abs_quotient]
  exact floorLog2_bounds (Int.natAbs_ne_zero.2 h) hden.ne'

/-- The mantissa is the integer nearest to `|x| / u`, a tie going to the even one. -/
theorem rn_mant_nearest (h : num ≠ 0) (hden : 0 < den) :
    |(|(num : ℚ) / den| / 2 ^ (rn f num den).exp - (rn f num den).mant)| ≤ 1 / 2 ∧
      (|(|(num : ℚ) / den| / 2 ^ (rn f num den).exp - (rn f num den).mant)| = 1 / 2 → Even (rn f num den).mant) := by
  have scaled : |(num : ℚ) / den| / 2 ^ (rn f num den).exp =
      (num.natAbs * 2 ^ (-(rn f num den).exp).toNat : ℕ) / (den * 2 ^ (rn f num den).exp.toNat : ℕ) := by
    rw [abs_quotient, two_zpow_eq_div]
    push_cast
    field_simp
  rw [scaled, rn_mant h]
  exact rne_nearest _ (by positivity)

end Rounded

/-- Settles O19: `e` is `floorLog2`, and the mantissa of `rn` is the nearest integer to the quotient over `u`. -/
theorem roundingIsToNearestEven : Obligations.RoundingIsToNearestEven := by
  refine ⟨rn_zero, fun f num den h hden => ⟨floorLog2 num.natAbs den, (rn f num den).mant, ?_⟩⟩
  obtain ⟨low, high⟩ := rn_exp_bounds h hden
  obtain ⟨near, tie⟩ := rn_mant_nearest (f := f) h hden
  have value := Binary.value_eq (rn f num den)
  simp only [rn_neg h, decide_eq_true_eq] at value
  rw [rn_exp h] at value near tie
  exact ⟨low, high, value, near, tie⟩

end Sys2Proof.Machine
end

section
/-! SUPPORT. The exact difference of R76 (spec 42_convert.md). -/

namespace Sys2Proof.Machine

theorem Binary.den_pos (x : Binary) : 0 < x.den := Nat.two_pow_pos _

theorem Binary.subNum_div_den (x : Binary) (n : ℕ) : (x.subNum n : ℚ) / x.den = x.value - n := by
  simp only [Binary.subNum, Binary.den, Binary.value, two_zpow_eq_div x.exp]
  push_cast
  field_simp

/-- Settles O21: the fraction that is rounded second is the exact difference from 45. -/
theorem temperatureRoundsTwice : Obligations.TemperatureRoundsTwice :=
  fun _ _ => ⟨_, _, Binary.den_pos _, Binary.subNum_div_den _ 45, rfl⟩

end Sys2Proof.Machine
end

section
/-! SUPPORT. Encoding a rounded result (spec 30_encoding.md R44, 42_convert.md R78): the three fields of an encoding,
and that a normal result keeps its value. -/

namespace Sys2Proof

theorem Flt.value_of_normal {v : Flt} (h : v.exponent ≠ 0) :
    v.value = (if v.sign then -1 else 1) * (2 : ℚ) ^ ((v.exponent : ℤ) - Machine.bias v.fmt) *
      (1 + (v.fraction : ℚ) / 2 ^ (Machine.precision v.fmt - 1)) := if_neg fun zero => h zero.1

theorem Flt.PlusZero.value {v : Flt} (h : v.PlusZero) : v.value = 0 := by
  obtain rfl | rfl := h <;> exact if_pos (by decide)

namespace Machine

theorem Binary.encode_zero (f : Fmt) : (Binary.encode f ⟨false, 0, 0⟩).PlusZero := by cases f <;> decide

section Layout

/-! One sign bit, `m` bits of exponent and `k` bits of fraction, in any widths. -/

variable (neg : Bool) (m k n : ℕ)

theorem layout_sign : (BitVec.ofBool neg ++ BitVec.ofNat (m + k) n).msb = neg := by
  cases neg <;> simp [BitVec.msb_append]

theorem layout_toNat :
    (BitVec.ofBool neg ++ BitVec.ofNat (m + k) n).toNat = neg.toNat * 2 ^ (m + k) + n % 2 ^ (m + k) := by
  rw [BitVec.toNat_append, BitVec.toNat_ofBool, BitVec.toNat_ofNat,
    ← Nat.shiftLeft_add_eq_or_of_lt (Nat.mod_lt _ (Nat.two_pow_pos _)), Nat.shiftLeft_eq]

theorem layout_fraction :
    ((BitVec.ofBool neg ++ BitVec.ofNat (m + k) n).extractLsb' 0 k).toNat = n % 2 ^ k := by
  rw [BitVec.extractLsb'_toNat, layout_toNat, Nat.shiftRight_zero, pow_add, ← mul_assoc,
    Nat.mul_add_mod_self_right, Nat.mod_mul_left_mod]

variable {m k n}

theorem layout_exponent (fits : n / 2 ^ k < 2 ^ m) :
    ((BitVec.ofBool neg ++ BitVec.ofNat (m + k) n).extractLsb' k m).toNat = n / 2 ^ k := by
  have small : n < 2 ^ (m + k) := by
    rwa [Nat.div_lt_iff_lt_mul (Nat.two_pow_pos k), ← pow_add] at fits
  rw [BitVec.extractLsb'_toNat, layout_toNat, Nat.mod_eq_of_lt small, Nat.shiftRight_eq_div_pow, pow_add,
    ← mul_assoc, add_comm, Nat.add_mul_div_right _ _ (Nat.two_pow_pos k), Nat.add_mul_mod_self_right,
    Nat.mod_eq_of_lt fits]

end Layout

@[simp] theorem Binary.encode_sign (f : Fmt) (x : Binary) : (x.encode f).sign = x.neg := by
  cases f with
  | binary64 => exact layout_sign x.neg 11 52 _
  | binary32 => exact layout_sign x.neg 8 23 _

/-- The fraction field is the low part of the number below the sign bit. -/
theorem Binary.encode_fraction (f : Fmt) (x : Binary) :
    (x.encode f).fraction = x.magnitude f % 2 ^ (precision f - 1) := by
  cases f with
  | binary64 => exact layout_fraction x.neg 11 52 _
  | binary32 => exact layout_fraction x.neg 8 23 _

/-- The exponent field is the part above the fraction, as long as this leaves the sign bit alone. -/
theorem Binary.encode_exponent {f : Fmt} {x : Binary}
    (fits : x.magnitude f / 2 ^ (precision f - 1) < f.maxExponent + 2) :
    (x.encode f).exponent = x.magnitude f / 2 ^ (precision f - 1) := by
  cases f with
  | binary64 => exact layout_exponent (m := 11) (k := 52) x.neg fits
  | binary32 => exact layout_exponent (m := 8) (k := 23) x.neg fits

theorem two_pow_precision (f : Fmt) : 2 ^ precision f = 2 * 2 ^ (precision f - 1) := by cases f <;> rfl

theorem precision_pos (f : Fmt) : 0 < precision f := by cases f <;> decide

/-- A full mantissa has its leading bit dropped; one rounded up to `2^p` is the next power of two. -/
theorem Binary.magnitude_fields {f : Fmt} {x : Binary} (low : 2 ^ (precision f - 1) ≤ x.mant)
    (high : x.mant ≤ 2 ^ precision f) :
    let biased := (x.exp + (precision f - 1) + bias f).toNat
    let top := x.magnitude f / 2 ^ (precision f - 1)
    let rest := x.magnitude f % 2 ^ (precision f - 1)
    top = biased ∧ x.mant = 2 ^ (precision f - 1) + rest ∨
      top = biased + 1 ∧ rest = 0 ∧ x.mant = 2 ^ precision f := by
  have pos : 0 < 2 ^ (precision f - 1) := Nat.two_pow_pos _
  have full : x.mant ≠ 0 := by omega
  rw [two_pow_precision] at high ⊢
  simp only [Binary.magnitude, full, if_false]
  generalize 2 ^ (precision f - 1) = unit at *
  rcases high.lt_or_eq with room | carry
  · left
    rw [mul_comm, Nat.mul_add_div pos, Nat.mul_add_mod, Nat.div_eq_of_lt (by omega), Nat.mod_eq_of_lt (by omega)]
    omega
  · right
    have rest : x.mant - unit = unit := by omega
    rw [rest, ← Nat.succ_mul]
    simp [pos, carry]

section Normal

variable {f : Fmt} {x : Binary} (low : 2 ^ (precision f - 1) ≤ x.mant) (high : x.mant ≤ 2 ^ precision f)
  (above : 0 < x.exp + (precision f - 1) + bias f) (below : x.exp + (precision f - 1) + bias f < f.maxExponent)

include low high above

/-- The value that R44 gives to the exponent and fraction fields is `mant * 2^exp`. -/
theorem Binary.fields_value :
    (2 : ℚ) ^ ((x.magnitude f / 2 ^ (precision f - 1) : ℕ) - bias f) *
        (1 + (x.magnitude f % 2 ^ (precision f - 1) : ℕ) / 2 ^ (precision f - 1)) = 2 ^ x.exp * x.mant := by
  have positive := precision_pos f
  obtain ⟨top, mant⟩ | ⟨top, rest, mant⟩ := Binary.magnitude_fields low high
  · have weight : ((x.magnitude f / 2 ^ (precision f - 1) : ℕ) : ℤ) - bias f = x.exp + (precision f - 1 : ℕ) := by
      omega
    rw [weight, zpow_add₀ two_ne_zero, zpow_natCast, mant]
    push_cast
    field_simp
  · have weight : ((x.magnitude f / 2 ^ (precision f - 1) : ℕ) : ℤ) - bias f = x.exp + (precision f : ℕ) := by
      omega
    rw [weight, zpow_add₀ two_ne_zero, zpow_natCast, mant, rest]
    simp

include below

/-- A mantissa of full precision over an exponent in range encodes to a normal number of the same value. -/
theorem Binary.encode_normal : (x.encode f).Normal ∧ (x.encode f).value = x.value := by
  have fields := Binary.magnitude_fields low high
  have exponent : (x.encode f).exponent = x.magnitude f / 2 ^ (precision f - 1) := Binary.encode_exponent (by omega)
  have normal : (x.encode f).Normal := by rw [Flt.Normal, encode_fmt, exponent]; omega
  refine ⟨normal, ?_⟩
  rw [Flt.value_of_normal (by omega), encode_sign, encode_fmt, encode_fraction, exponent, Binary.value_eq, mul_assoc,
    mul_assoc, Binary.fields_value low high above]

end Normal

section Rounded

variable {f : Fmt} {num : ℤ} {den : ℕ} (h : num ≠ 0) (hden : 0 < den)
include h hden

/-- Rounding keeps a mantissa between the two powers of two around the quotient: both are integers. -/
theorem rn_mant_bounds :
    2 ^ (precision f - 1) ≤ (rn f num den).mant ∧ (rn f num den).mant ≤ 2 ^ precision f := by
  have positive := precision_pos f
  obtain ⟨near, -⟩ := rn_mant_nearest (f := f) h hden
  obtain ⟨low, high⟩ := rn_exp_bounds h hden
  have unit : (0 : ℚ) < 2 ^ (rn f num den).exp := by positivity
  have least : ((precision f - 1 : ℕ) : ℤ) + (rn f num den).exp = floorLog2 num.natAbs den := by
    rw [rn_exp h]; omega
  have most : (precision f : ℤ) + (rn f num den).exp = floorLog2 num.natAbs den + 1 := by
    rw [rn_exp h]; omega
  have low' : (2 : ℚ) ^ (precision f - 1) ≤ |(num : ℚ) / den| / 2 ^ (rn f num den).exp := by
    rwa [le_div_iff₀ unit, ← zpow_natCast, ← zpow_add₀ two_ne_zero, least]
  have high' : |(num : ℚ) / den| / 2 ^ (rn f num den).exp < 2 ^ precision f := by
    rwa [div_lt_iff₀ unit, ← zpow_natCast, ← zpow_add₀ two_ne_zero, most]
  obtain ⟨near_low, near_high⟩ := abs_le.1 near
  constructor
  · have : (2 : ℚ) ^ (precision f - 1) < (rn f num den).mant + 1 := by linarith
    exact Nat.le_of_lt_succ (mod_cast this)
  · have : ((rn f num den).mant : ℚ) < 2 ^ precision f + 1 := by linarith
    exact Nat.le_of_lt_succ (mod_cast this)

/-- A rounded quotient within `2^-100` to `2^100` encodes to a normal number of the same value. -/
theorem rn_encode_normal (low : (2 : ℚ) ^ (-100 : ℤ) ≤ |(num : ℚ) / den|) (high : |(num : ℚ) / den| ≤ 2 ^ (100 : ℤ)) :
    ((rn f num den).encode f).Normal ∧ ((rn f num den).encode f).value = (rn f num den).value := by
  obtain ⟨mantLow, mantHigh⟩ := rn_mant_bounds (f := f) h hden
  obtain ⟨expLow, expHigh⟩ := rn_exp_bounds h hden
  have least : -100 < floorLog2 num.natAbs den + 1 :=
    (zpow_lt_zpow_iff_right₀ one_lt_two).1 (low.trans_lt expHigh)
  have greatest : floorLog2 num.natAbs den ≤ 100 :=
    (zpow_le_zpow_iff_right₀ one_lt_two).1 (expLow.trans high)
  have inRange : 100 < bias f ∧ bias f + 100 < f.maxExponent := by cases f <;> decide
  refine Binary.encode_normal mantLow mantHigh ?_ ?_ <;> rw [rn_exp h] <;> omega

end Rounded

/-- Settles O22: the encoding is `humidity` by definition; its value is that of the rounded quotient, which is zero
for the count 0 and otherwise between 100/65535 and 100. -/
theorem humidityRoundsOnce : Obligations.HumidityRoundsOnce := by
  refine fun f c => ⟨rfl, ?_⟩
  change ((rn f (c.toNat * 100 : ℕ) 65535).encode f).value = _
  rcases Nat.eq_zero_or_pos c.toNat with zero | positive
  · rw [zero, Nat.zero_mul, Nat.cast_zero, rn_zero, (Binary.encode_zero f).value]
    simp [Binary.value, Binary.signed]
  · have least : (1 : ℚ) ≤ c.toNat := mod_cast positive
    have greatest : (c.toNat : ℚ) ≤ 65535 := mod_cast Nat.le_of_lt_succ c.isLt
    have quotient : |(((c.toNat * 100 : ℕ) : ℤ) : ℚ) / (65535 : ℕ)| = c.toNat * 100 / 65535 := by
      rw [abs_quotient, Int.natAbs_natCast]; push_cast; rfl
    refine (rn_encode_normal (by omega) (by norm_num) ?_ ?_).2
    · calc (2 : ℚ) ^ (-100 : ℤ) ≤ 1 * 100 / 65535 := by norm_num
        _ ≤ |(((c.toNat * 100 : ℕ) : ℤ) : ℚ) / (65535 : ℕ)| := by rw [quotient]; gcongr
    · calc |(((c.toNat * 100 : ℕ) : ℤ) : ℚ) / (65535 : ℕ)| ≤ 65535 * 100 / 65535 := by rw [quotient]; gcongr
        _ ≤ 2 ^ (100 : ℤ) := by norm_num

end Machine
end Sys2Proof
end

section
/-! SUPPORT. How a read attempt ends (spec 43_measure.md R86 to R92): each outcome of `process_frame` and of `MEAS` with
the whole state after it, then the one inversion lemma of both read attempts. -/

namespace Sys2Proof.Machine

variable (s : State)

theorem raise_eq (e : Err) :
    s.raise e = { s with err := e, phase := .idle, history := s.history ++ [.errSet e, .response [0x00]] } := by
  simp [State.raise, State.respond, State.logEvent, State.withPhase, State.withErr, Response.bytes]

/-! The three outcomes of `process_frame` (R86). -/

section Outcomes

variable {b0 b1 b2 b3 b4 b5 : Byte}

theorem processFrame_of_badTemperature (bad : crc8 b0 b1 ≠ b2) :
    s.processFrame ⟨b0, b1, b2, b3, b4, b5⟩ = s.raise .checksumFailedTemperature := by
  simp [State.processFrame, bad]

theorem processFrame_of_badHumidity (good : crc8 b0 b1 = b2) (bad : crc8 b3 b4 ≠ b5) :
    s.processFrame ⟨b0, b1, b2, b3, b4, b5⟩ = s.raise .checksumFailedHumidity := by
  simp [State.processFrame, good, bad]

theorem processFrame_of_good (goodT : crc8 b0 b1 = b2) (goodH : crc8 b3 b4 = b5) :
    s.processFrame ⟨b0, b1, b2, b3, b4, b5⟩ =
      s.commitAndReturn (cvtT s.cfg.fmt (raw b0 b1)) (cvtH s.cfg.fmt (raw b3 b4)) := by
  simp [State.processFrame, goodT, goodH]

end Outcomes

/-- Settles O29: `FRAME` clears `ERR` and processes its operands as a frame; then each outcome of that. -/
theorem frameValidatesConvertsCommits : Obligations.FrameValidatesConvertsCommits := by
  intro b0 b1 b2 b3 b4 b5 s
  rw [execFrame_eq]
  refine ⟨fun bad => ?_, fun good bad => ?_, fun goodT goodH => ?_⟩
  · rw [processFrame_of_badTemperature _ bad, raise_eq]; simp [clearErr_eq]
  · rw [processFrame_of_badHumidity _ good bad, raise_eq]; simp [clearErr_eq]
  · rw [processFrame_of_good _ goodT goodH, commitAndReturn_eq]; simp [clearErr_eq]

/-! The outcomes of `MEAS` (R88), by the answers of the transport. -/

theorem commandWritten_eq :
    s.commandWritten = { s with
      err := .none, writeScript := s.writeScript.tail, calls := s.calls + 1,
      history := s.history ++ [.errCleared, .write s.addr [0x2C, 0x06] s.nextWrite] } := by
  simp [State.commandWritten, clearErr_eq, State.transportWrite, State.nextWrite, measurementCommand]

/-- The answer to the frame read is the transport's next one after the command write. -/
theorem nextRead_conversionAwaited :
    s.conversionAwaited.nextRead =
      s.readScript.head?.getD (Config.freeReadAnswer s.cfg.transport (s.calls + 1)) := rfl

theorem frameRead_eq :
    s.frameRead = { s with
      err := .none, writeScript := s.writeScript.tail, readScript := s.readScript.tail, calls := s.calls + 2,
      history := s.history ++ [.errCleared, .write s.addr [0x2C, 0x06] s.nextWrite, .delay s.cfg.tConv,
        .read s.addr 6 s.conversionAwaited.nextRead] } := by
  simp [State.frameRead, State.conversionAwaited, commandWritten_eq, delay_eq, State.transportRead, State.nextRead]

section Meas

variable {s}

theorem execMeas_of_writeFails (fails : s.nextWrite = .fail) :
    exec .meas s = .next (s.commandWritten.raise .transportWriteFailed) := by
  have ends := finish_beginMeas_cases s
  simp only [fails, reduceCtorEq, false_and, exists_false, or_false, true_and] at ends
  exact congrArg Host.Outcome.next ends

theorem execMeas_of_readFails (written : s.nextWrite = .ok)
    (fails : s.conversionAwaited.nextRead = .fail ∨
      ∃ bs short, s.conversionAwaited.nextRead = .bytes bs short ∧ bs.length < 6) :
    exec .meas s = .next (s.frameRead.raise .transportReadFailed) := by
  obtain ⟨failed, _⟩ | ⟨_, _, ends⟩ | ⟨fb, _, _, answered, _⟩ := finish_beginMeas_cases s
  · cases written.symm.trans failed
  · exact congrArg Host.Outcome.next ends
  · obtain failed | ⟨bs, _, bytes, short⟩ := fails
    · cases failed.symm.trans answered
    · cases bytes.symm.trans answered
      simp at short

theorem execMeas_of_frameRead {b0 b1 b2 b3 b4 b5 : Byte} {short : [b0, b1, b2, b3, b4, b5].length ≤ 6}
    (written : s.nextWrite = .ok)
    (answered : s.conversionAwaited.nextRead = .bytes [b0, b1, b2, b3, b4, b5] short) :
    exec .meas s = .next (s.frameRead.processFrame ⟨b0, b1, b2, b3, b4, b5⟩) := by
  obtain ⟨failed, _⟩ | ⟨_, fails, _⟩ | ⟨fb, _, _, read, ends⟩ := finish_beginMeas_cases s
  · cases written.symm.trans failed
  · obtain failed | ⟨bs, _, bytes, wrong⟩ := fails
    · cases failed.symm.trans answered
    · cases bytes.symm.trans answered
      exact absurd rfl wrong
  · cases answered.symm.trans read
    exact congrArg Host.Outcome.next ends

end Meas

/-- Settles O30: the answers to the write and to the read decide how far `MEAS` goes; then, as in `FRAME`, each outcome
of the frame it has read. -/
theorem measRunsOneMeasurementCycle : Obligations.MeasRunsOneMeasurementCycle := by
  refine ⟨rfl, fun s => ?_⟩
  simp only [← nextRead_conversionAwaited]
  refine ⟨fun fails => ?_, fun written fails => ?_, fun b0 b1 b2 b3 b4 b5 short written answered => ?_⟩
  · rw [execMeas_of_writeFails fails, raise_eq]; simp [commandWritten_eq]
  · rw [execMeas_of_readFails written fails, raise_eq]; simp [frameRead_eq]
  · rw [execMeas_of_frameRead written answered]
    refine ⟨fun bad => ?_, fun good bad => ?_, fun goodT goodH => ?_⟩
    · rw [processFrame_of_badTemperature _ bad, raise_eq]; simp [frameRead_eq]
    · rw [processFrame_of_badHumidity _ good bad, raise_eq]; simp [frameRead_eq]
    · rw [processFrame_of_good _ goodT goodH, commitAndReturn_eq]; simp [frameRead_eq]

/-! Both read attempts at once. -/

/-- `u` is `s` in the course of a read attempt, `ERR` cleared and no value committed yet. -/
structure State.Attempting (s u : State) : Prop where
  cfg : u.cfg = s.cfg
  addr : u.addr = s.addr
  input : u.input = s.input
  err : u.err = .none
  haveFlag : u.haveFlag = s.haveFlag
  tVal : u.tVal = s.tVal
  hVal : u.hVal = s.hVal

theorem attempting_clearErr : s.Attempting s.clearErr := ⟨rfl, rfl, rfl, rfl, rfl, rfl, rfl⟩

theorem attempting_commandWritten : s.Attempting s.commandWritten := ⟨rfl, rfl, rfl, rfl, rfl, rfl, rfl⟩

theorem attempting_frameRead : s.Attempting s.frameRead := ⟨rfl, rfl, rfl, rfl, rfl, rfl, rfl⟩

/-- The two ways a read attempt ends from `u`: an error raised, or one commit of two converted counts. -/
inductive State.EndsAttempt (u : State) : State → Prop
  | failed (e : Err) (isError : e ≠ .none) : EndsAttempt u (u.raise e)
  | committed (hi lo hi' lo' : Byte) :
      EndsAttempt u (u.commitAndReturn (cvtT u.cfg.fmt (raw hi lo)) (cvtH u.cfg.fmt (raw hi' lo')))

theorem processFrame_endsAttempt (fb : Frame) : s.EndsAttempt (s.processFrame fb) := by
  unfold State.processFrame
  split
  · split
    · exact .committed _ _ _ _
    · exact .failed _ (by decide)
  · exact .failed _ (by decide)

theorem readAttempt_ends {i : Instr} {s t : State} (attempt : isReadAttempt i = true) (h : exec i s = .next t) :
    ∃ u, s.Attempting u ∧ u.EndsAttempt t := by
  cases i with
  | frame b0 b1 b2 b3 b4 b5 =>
    rw [execFrame_eq] at h; cases h
    exact ⟨_, attempting_clearErr s, processFrame_endsAttempt _ _⟩
  | meas =>
    cases h
    obtain ⟨_, ends⟩ | ⟨_, _, ends⟩ | ⟨fb, _, _, _, ends⟩ := finish_beginMeas_cases s
    · rw [ends]; exact ⟨_, attempting_commandWritten s, .failed _ (by decide)⟩
    · rw [ends]; exact ⟨_, attempting_frameRead s, .failed _ (by decide)⟩
    · rw [ends]; exact ⟨_, attempting_frameRead s, processFrame_endsAttempt _ fb⟩
  | _ => cases attempt

/-- Settles O32: an error raised leaves the caches, a commit writes all three and is the last event but the response. -/
theorem readAttemptCommitsAllOrNothing : Obligations.ReadAttemptCommitsAllOrNothing := by
  intro i s t attempt h
  obtain ⟨u, ⟨cfg, addr, input, err, haveFlag, tVal, hVal⟩, ends⟩ := readAttempt_ends attempt h
  cases ends with
  | failed e isError =>
    exact ⟨cfg, addr, input, rfl, fun _ => ⟨tVal, hVal, haveFlag⟩, fun noError => absurd noError isError⟩
  | committed hi lo hi' lo' =>
    refine ⟨cfg, addr, input, rfl, fun error => absurd err error, fun _ => ⟨rfl, hi, lo, hi', lo', ?_, ?_, ?_⟩⟩
    · rw [← cfg]; rfl
    · rw [← cfg]; rfl
    · simp [commitAndReturn_eq, lastCommit_append, lastCommit]

/-- Settles O34: without an error the attempt ended in a commit, which answers the pair it writes; the accessors read
the caches, and `GETT` leaves them. -/
theorem accessorsReturnTheResult : Obligations.AccessorsReturnTheResult := by
  intro i s t attempt h noError
  obtain ⟨u, _, ends⟩ := readAttempt_ends attempt h
  cases ends with
  | failed e isError => exact absurd noError isError
  | committed hi lo hi' lo' =>
    exact ⟨_, _, rfl, rfl, lastResponse_respond _ (.result _ _), lastResponse_respond _ (.cached true _),
      lastResponse_respond _ (.cached true _)⟩

end Sys2Proof.Machine
end

section
/-! SUPPORT. The bus address in a byte (spec 30_encoding.md R45; 44_access.md R103, R104): which bytes hold one, its
bits, and the byte that gives it back; then the texts of `MSG` (R105). -/

namespace Sys2Proof

theorem addressByteLegal_iff (a : Byte) : addressByteLegal a = true ↔ 1 ≤ a.toNat ∧ a.toNat ≤ 0x7F := by
  have nonzero : (a != 0x00) = true ↔ 1 ≤ a.toNat := by simp [← BitVec.toNat_inj, Nat.one_le_iff_ne_zero]
  have below : (!a.msb) = true ↔ a.toNat ≤ 0x7F := by
    rw [Bool.not_eq_true', BitVec.msb_eq_false_iff_two_mul_lt]; omega
  rw [addressByteLegal, Bool.and_eq_true, nonzero, below]

namespace Machine

/-- The address of a byte is its low seven bits. -/
theorem addressOfByte_eq_extractLsb' (a : Byte) : addressOfByte a = a.extractLsb' 0 7 :=
  BitVec.setWidth_eq_extractLsb' (by decide)

/-- The byte of an address has a zero bit above it. -/
theorem byteOfAddress_eq_append (a : BusAddr) : byteOfAddress a = 0#1 ++ a :=
  BitVec.setWidth_eq_append (by decide)

@[simp] theorem toNat_byteOfAddress (a : BusAddr) : (byteOfAddress a).toNat = a.toNat :=
  BitVec.toNat_setWidth_of_le (by decide)

theorem toNat_addressOfByte {a : Byte} (legal : addressByteLegal a = true) : (addressOfByte a).toNat = a.toNat := by
  obtain ⟨_, high⟩ := (addressByteLegal_iff a).1 legal
  rw [addressOfByte, BitVec.toNat_setWidth]
  exact Nat.mod_eq_of_lt (by omega)

/-- Settles O36: the bytes of either clause are refused or legal, and `SETADDR` does as that says. -/
theorem setaddrSetsOnlyLegalAddresses : Obligations.SetaddrSetsOnlyLegalAddresses := by
  intro a s
  refine ⟨rfl, fun outside => ?_, fun low high => ?_⟩
  · have illegal : ¬ addressByteLegal a = true := by
      rw [addressByteLegal_iff]
      obtain rfl | above := outside
      · decide
      · omega
    obtain ⟨legal, _⟩ | ⟨_, refused⟩ := execSetaddr_cases a s
    · exact absurd legal illegal
    · exact refused
  · have legal := (addressByteLegal_iff a).2 ⟨low, high⟩
    rw [← addressOfByte_eq_extractLsb']
    obtain ⟨_, taken⟩ | ⟨illegal, _⟩ := execSetaddr_cases a s
    · exact ⟨taken, toNat_addressOfByte legal⟩
    · cases legal.symm.trans illegal

/-- Settles O37: the answer is the byte of `ADDR`, whose number is that of `ADDR`. -/
theorem getaddrAnswersTheAddress : Obligations.GetaddrAnswersTheAddress := by
  intro s
  rw [← byteOfAddress_eq_append, toNat_byteOfAddress]
  refine ⟨rfl, rfl, fun nonzero => ?_, Nat.le_of_lt_succ s.addr.isLt⟩
  exact Nat.one_le_iff_ne_zero.2 (BitVec.toNat_ne.1 nonzero)

/-- The text of an error has a first character, whichever it is (log 6). -/
theorem messageText_ne_empty (e : Err) : message.text e ≠ "" := by simp [message.text]

/-- Settles O38: `NONE` alone is not given a text. -/
theorem messageIsEmptyIffNoError : Obligations.MessageIsEmptyIffNoError := by
  intro e
  cases e with
  | none => exact iff_of_true rfl rfl
  | _ => exact iff_of_false (messageText_ne_empty _) (by decide)

end Machine
end Sys2Proof
end

section
/-! SUPPORT. `SCAN` (spec 45_peripheral.md R110, R111): the answers to a row of writes, the state a row of probes
leaves and the addresses it finds; then the row 1 to 127 in bytes. -/

namespace Sys2Proof.Machine

variable (s : State)

/-- The answer to the write that is made after `k` others (R35, log 3). -/
def State.writeAnswer (k : Nat) : WriteAnswer :=
  s.writeScript[k]?.getD (Config.freeWriteAnswer s.cfg.transport (s.calls + k))

@[simp] theorem State.writeAnswer_zero : s.writeAnswer 0 = s.nextWrite := by
  simp [State.writeAnswer, State.nextWrite, List.head?_eq_getElem?]

@[simp] theorem State.writeAnswer_probe (a : BusAddr) (k : Nat) :
    (s.probe a).writeAnswer k = s.writeAnswer (k + 1) := by
  simp [State.writeAnswer, State.probe, Nat.add_assoc, Nat.add_comm 1]

/-- The probes of a row of `n` addresses cut the script, count the calls and log one write per address. -/
theorem scanFrom_range_state (g : Nat → BusAddr) (n : Nat) :
    (scanFrom ((List.range n).map g) s).2 = { s with
      writeScript := s.writeScript.drop n, calls := s.calls + n,
      history := s.history ++ (List.range n).map fun k => .write (g k) [s.cfg.probeByte] (s.writeAnswer k) } := by
  rw [scanFrom_state]
  induction n generalizing s g with
  | zero => simp
  | succ n ih =>
    rw [List.range_succ_eq_map, List.map_cons, List.map_map, List.foldl_cons, ih]
    simp only [State.writeAnswer_probe]
    simp [State.probe, State.transportWrite, Nat.add_assoc, Nat.add_comm 1]

/-- The addresses found in a row are those whose write was acknowledged, in the order of the row. -/
theorem scanFrom_range_found (g : Nat → BusAddr) (n : Nat) :
    (scanFrom ((List.range n).map g) s).1 = ((List.range n).filter fun k => s.writeAnswer k == .ok).map g := by
  induction n generalizing s g with
  | zero => rfl
  | succ n ih =>
    rw [List.range_succ_eq_map, List.map_cons, List.map_map, scanFrom]
    cases acknowledged : s.nextWrite <;> simp [acknowledged, List.filter_map, Function.comp_def, ih]

/-- In the row of `SCAN` no address is cut short in seven bits, so its byte is its number. -/
theorem byteOfAddress_scanned {k : Nat} (hk : k < 127) :
    byteOfAddress (BitVec.ofNat 7 (k + 1)) = BitVec.ofNat 8 (k + 1) := by
  apply BitVec.eq_of_toNat_eq
  rw [toNat_byteOfAddress, BitVec.toNat_ofNat, BitVec.toNat_ofNat]
  omega

/-- The bytes of the addresses `SCAN` finds, in the order probed. -/
theorem scanned_bytes :
    (scanFrom validAddresses s).1.map byteOfAddress =
      ((List.range 127).filter fun k => s.writeAnswer k == .ok).map fun k => BitVec.ofNat 8 (k + 1) := by
  rw [validAddresses, scanFrom_range_found, List.map_map]
  refine List.map_congr_left fun k hk => byteOfAddress_scanned ?_
  exact List.mem_range.1 (List.mem_of_mem_filter hk)

/-- The bytes 1 to 127 ascend strictly. -/
theorem pairwise_lt_scannedBytes :
    ((List.range 127).map fun k => BitVec.ofNat 8 (k + 1)).Pairwise fun a b => a.toNat < b.toNat := by
  rw [List.pairwise_map]
  refine List.pairwise_lt_range.imp_of_mem fun {a b} ha hb lt => ?_
  rw [List.mem_range] at ha hb
  rw [BitVec.toNat_ofNat, BitVec.toNat_ofNat]
  omega

theorem bytes_addresses (found : List BusAddr) :
    (Response.addresses found).bytes =
      0x01 :: BitVec.ofNat 8 (found.map byteOfAddress).length :: found.map byteOfAddress := by
  rw [Response.bytes, List.length_map]

/-- `SCAN` makes its 127 probes and answers what they found. -/
theorem exec_scan : exec .scan s =
    .next ((scanFrom validAddresses s).2.respond (.addresses (scanFrom validAddresses s).1)) := rfl

/-- Settles O39: the row of 127 probes from address 1; what is found is a part of the row, in its order. -/
theorem scanProbesEveryAddressOnce : Obligations.ScanProbesEveryAddressOnce := by
  refine ⟨rfl, fun s => ?_⟩
  intro answer found
  have part : found.Sublist ((List.range 127).map fun k => BitVec.ofNat 8 (k + 1)) := List.filter_sublist.map _
  have bytes : (scanFrom validAddresses s).1.map byteOfAddress = found := scanned_bytes s
  refine ⟨?_, pairwise_lt_scannedBytes.sublist part, by simpa using part.length_le⟩
  rw [exec_scan, State.respond, State.logEvent, bytes_addresses, bytes, validAddresses, scanFrom_range_state]
  rfl

end Sys2Proof.Machine
end

section
/-! SUPPORT. Errors (spec 60_exceptions.md R121, R124): clearing forgets what was recorded, and each read attempt starts
from the cleared state. -/

namespace Sys2Proof.Machine

variable (s : State)

/-- After the clearing nothing tells what was recorded before it. -/
theorem clearErr_withErr (e : Err) : (s.withErr e).clearErr = s.clearErr := rfl

/-- `MEAS` is its phases from the command write on, begun in the cleared state. -/
theorem execMeas_eq : exec .meas s = .next (s.clearErr.withPhase .write).finish := rfl

theorem execMeas_withErr (e : Err) : exec .meas (s.withErr e) = exec .meas s := by
  rw [execMeas_eq, clearErr_withErr, ← execMeas_eq]

theorem execFrame_withErr (b0 b1 b2 b3 b4 b5 : Byte) (e : Err) :
    exec (.frame b0 b1 b2 b3 b4 b5) (s.withErr e) = exec (.frame b0 b1 b2 b3 b4 b5) s := by
  rw [execFrame_eq, clearErr_withErr, ← execFrame_eq]

/-- Settles O28: the whole state after an error is raised and after a clearing; both read attempts begin with the
clearing, so they forget what was recorded. -/
theorem raiseRecordsAndEndsTheOperation : Obligations.RaiseRecordsAndEndsTheOperation := fun s e =>
  ⟨raise_eq s e, clearErr_eq s, execMeas_withErr s e, fun _ _ _ _ _ _ => execFrame_withErr s _ _ _ _ _ _ e⟩

end Sys2Proof.Machine
end

section
/-! SUPPORT. Command streams (spec 30_encoding.md R46 to R50): the decoder's answers read backwards, the parse of a
whole stream against the bytes of its elements, and the refusals of a step. -/

namespace Sys2Proof

/-! The decoder's answers read backwards. -/

/-- What the decoder can answer, with the two answers that take nothing off the stream in full. -/
theorem decode_cases (bs : List Byte) :
    (∃ i rest, decode bs = .packet i rest) ∨ (∃ op rest, decode bs = .reserved op rest) ∨
    (∃ op n rest, bs = op :: rest ∧ OpName.ofOpcode op = some n ∧ rest.length < n.format.operandBytes ∧
      decode bs = .incomplete op) ∨
    (bs = [] ∧ decode bs = .streamEnd) := by
  cases bs with
  | nil => exact .inr (.inr (.inr ⟨rfl, rfl⟩))
  | cons op rest =>
    cases known : OpName.ofOpcode op with
    | none => exact .inr (.inl ⟨op, rest, decode_reserved op rest known⟩)
    | some n =>
      rw [decode_known op rest n known]
      obtain ⟨i, tl, _, _, taken⟩ | ⟨short, ends⟩ := decodeOperands_cases op n rest
      · exact .inl ⟨i, tl, taken⟩
      · exact .inr (.inr (.inl ⟨op, n, rest, rfl, known, short, ends⟩))

theorem decode_packet_iff {bs : List Byte} {i : Instr} {rest : List Byte} :
    decode bs = .packet i rest ↔ bs = encode i ++ rest := by
  refine ⟨eq_encode_append_of_decode, ?_⟩
  rintro rfl
  exact decode_encode_append i rest

theorem decode_reserved_iff {bs : List Byte} {op : Byte} {rest : List Byte} :
    decode bs = .reserved op rest ↔ bs = op :: rest ∧ OpName.ofOpcode op = none := by
  refine ⟨eq_cons_of_decode_reserved, ?_⟩
  rintro ⟨rfl, reserved⟩
  exact decode_reserved op rest reserved

theorem decode_incomplete_iff {bs : List Byte} {op : Byte} :
    decode bs = .incomplete op ↔
      ∃ n rest, bs = op :: rest ∧ OpName.ofOpcode op = some n ∧ rest.length < n.format.operandBytes := by
  constructor
  · intro h
    obtain ⟨_, _, e⟩ | ⟨_, _, e⟩ | ⟨_, n, rest, stream, known, short, e⟩ | ⟨_, e⟩ := decode_cases bs <;>
      cases e.symm.trans h
    exact ⟨n, rest, stream, known, short⟩
  · rintro ⟨n, rest, rfl, known, short⟩
    exact decode_short known short

theorem decode_streamEnd_iff {bs : List Byte} : decode bs = .streamEnd ↔ bs = [] := by
  constructor
  · intro h
    obtain ⟨_, _, e⟩ | ⟨_, _, e⟩ | ⟨_, _, _, _, _, _, e⟩ | ⟨stream, e⟩ := decode_cases bs <;>
      cases e.symm.trans h
    exact stream
  · rintro rfl
    rfl

/-! The parse of a whole stream. -/

/-- One element as the decoder answers it. -/
def Packet.decoded : Packet → List Byte → Decoded
  | .operation i, rest => .packet i rest
  | .reserved op, rest => .reserved op rest

/-- An element a stream can hold: a reserved byte is a reserved opcode. -/
def Packet.Valid (p : Packet) : Prop := ∀ op, p = .reserved op → OpName.ofOpcode op = none

theorem decode_eq_decoded_iff {bs : List Byte} {p : Packet} {rest : List Byte} :
    decode bs = p.decoded rest ↔ bs = p.bytes ++ rest ∧ p.Valid := by
  cases p with
  | operation i => simp [Packet.decoded, Packet.bytes, Packet.Valid, decode_packet_iff]
  | reserved op => simp [Packet.decoded, Packet.bytes, Packet.Valid, decode_reserved_iff]

/-- A parse with fuel left reads one element and goes on. -/
theorem parseStream_of_decoded {n : Nat} {bs : List Byte} {p : Packet} {rest : List Byte}
    (h : decode bs = p.decoded rest) : parseStream (n + 1) bs = (parseStream n rest).map (p :: ·) := by
  cases p <;> simp [parseStream, h, Packet.decoded]

theorem parseStream_nil (n : Nat) : parseStream n [] = some [] := by cases n <;> rfl

/-- The inversion of one parse: nothing was there to read, or one element was read before the others. -/
theorem parseStream_cases {n : Nat} {bs : List Byte} {ps : List Packet} (h : parseStream n bs = some ps) :
    (bs = [] ∧ ps = []) ∨
    ∃ m p rest qs, n = m + 1 ∧ ps = p :: qs ∧ decode bs = p.decoded rest ∧ parseStream m rest = some qs := by
  cases n with
  | zero => simp_all [parseStream]
  | succ m =>
    cases found : decode bs with
    | packet i rest =>
      rw [parseStream_of_decoded (p := .operation i) found, Option.map_eq_some_iff] at h
      obtain ⟨qs, read, rfl⟩ := h
      exact .inr ⟨m, _, rest, qs, rfl, rfl, rfl, read⟩
    | reserved op rest =>
      rw [parseStream_of_decoded (p := .reserved op) found, Option.map_eq_some_iff] at h
      obtain ⟨qs, read, rfl⟩ := h
      exact .inr ⟨m, _, rest, qs, rfl, rfl, rfl, read⟩
    | incomplete op => simp [parseStream, found] at h
    | streamEnd => simp_all [parseStream, decode_streamEnd_iff]

/-- As many elements as the fuel reaches are read back. -/
theorem parseStream_bytes {ps : List Packet} (valid : ∀ p ∈ ps, p.Valid) {n : Nat} (fuel : ps.length ≤ n) :
    parseStream n (ps.flatMap Packet.bytes) = some ps := by
  induction ps generalizing n with
  | nil => exact parseStream_nil n
  | cons p ps ih =>
    obtain ⟨validHead, validTail⟩ := List.forall_mem_cons.1 valid
    obtain ⟨m, rfl⟩ : ∃ m, n = m + 1 := ⟨n - 1, by rw [List.length_cons] at fuel; omega⟩
    rw [List.flatMap_cons, parseStream_of_decoded (decode_eq_decoded_iff.2 ⟨rfl, validHead⟩),
      ih validTail (Nat.le_of_succ_le_succ fuel), Option.map_some]

theorem eq_bytes_of_parseStream {n : Nat} {bs : List Byte} {ps : List Packet} (h : parseStream n bs = some ps) :
    bs = ps.flatMap Packet.bytes ∧ ∀ p ∈ ps, p.Valid := by
  induction ps generalizing n bs with
  | nil =>
    obtain ⟨rfl, _⟩ | ⟨_, _, _, _, _, none, _⟩ := parseStream_cases h
    · simp
    · cases none
  | cons p ps ih =>
    obtain ⟨_, none⟩ | ⟨m, _, rest, _, rfl, same, found, read⟩ := parseStream_cases h
    · cases none
    · cases same
      obtain ⟨stream, valid⟩ := decode_eq_decoded_iff.1 found
      obtain ⟨tail, validTail⟩ := ih read
      exact ⟨by rw [stream, tail, List.flatMap_cons], List.forall_mem_cons.2 ⟨valid, validTail⟩⟩

theorem Packet.one_le_length_bytes (p : Packet) : 1 ≤ p.bytes.length := by
  cases p <;> simp [Packet.bytes, encode]

/-- A stream is at least as long as it has elements. -/
theorem length_le_length_bytes (ps : List Packet) : ps.length ≤ (ps.flatMap Packet.bytes).length := by
  induction ps with
  | nil => rfl
  | cons p ps ih =>
    have := p.one_le_length_bytes
    rw [List.flatMap_cons, List.length_append, List.length_cons]
    omega

theorem forall_valid_iff {ps : List Packet} :
    (∀ p ∈ ps, p.Valid) ↔ ∀ op, Packet.reserved op ∈ ps → OpName.ofOpcode op = none :=
  ⟨fun h op mem => h _ mem op rfl, fun h _ mem op reserved => h op (reserved ▸ mem)⟩

namespace Machine

/-- Settles O4, by induction over the elements: the decoder takes each off the stream, and the length of the stream is
fuel enough. -/
theorem commandStreamReadsBack : Obligations.CommandStreamReadsBack :=
  fun ps reserved => parseStream_bytes (forall_valid_iff.2 reserved) (length_le_length_bytes ps)

/-- Settles O5, by induction over the elements read. -/
theorem readStreamIsItsPackets : Obligations.ReadStreamIsItsPackets :=
  fun _ _ _ read => (eq_bytes_of_parseStream read).imp_right forall_valid_iff.1

/-- Settles O3: each answer of the decoder, read in both directions. -/
theorem decoderReadsExactlyThePacket : Obligations.DecoderReadsExactlyThePacket :=
  fun _ => ⟨fun _ _ => decode_packet_iff, fun _ _ => decode_reserved_iff, fun _ => decode_incomplete_iff,
    decode_streamEnd_iff⟩

/-- Settles O2: the decoder computed on the listed bytes. -/
theorem writtenPacketsDecode : Obligations.WrittenPacketsDecode := by
  unfold Obligations.WrittenPacketsDecode
  decide

/-- Settles O8: an idle machine goes by what the decoder finds. -/
theorem stepRunsDecodedOperation : Obligations.StepRunsDecodedOperation := by
  intro s i rest idle found
  rw [step_idle s idle, found]
  rfl

/-- The refusals of a step are the two ends of a stream. -/
theorem step_refused_iff (s : State) (r : Refusal) :
    step s = .refused r ↔ s.phase = .idle ∧
      ((decode s.input = .streamEnd ∧ r = .streamEnded) ∨
        ∃ op, decode s.input = .incomplete op ∧ r = .incompletePacket op) := by
  by_cases idle : s.phase = .idle
  · rw [step_idle s idle]
    cases found : decode s.input with
    | packet i rest =>
      obtain ⟨t, answers⟩ := exec_answers (s.withInput rest) i
      simp [answers]
    | reserved op rest => simp
    | incomplete op => simp [idle, eq_comm]
    | streamEnd => simp [idle, eq_comm]
  · simp [step_busy s idle, idle]

/-- Settles O50: there is no fault to raise, and the two ends of a stream as the decoder finds them. -/
theorem stepStopsOnlyAtTheEndOfTheStream : Obligations.StepStopsOnlyAtTheEndOfTheStream := by
  refine fun s => ⟨fun f => (nomatch f), fun r => ?_⟩
  simp only [step_refused_iff, decode_streamEnd_iff, decode_incomplete_iff, ← exists_and_right, and_assoc]

end Machine
end Sys2Proof
end

section
/-! SUPPORT. The invariant of the registers (spec 10_state.md R11 to R19): it holds at reset, and every operation on the
state, every phase, every meaning and every step keeps it. -/

namespace Sys2Proof.Machine

theorem inv_create {c : Config} (legal : c.Legal) (t h : BitVec 64) : (State.create c t h).Inv :=
  ⟨legal, legal.1, Flt.ofBits_fmt c.fmt t, Flt.ofBits_fmt c.fmt h, fun noResult => (nomatch noResult), trivial⟩

/-- Settles O41: `State.create` by its definition, and `State.reset` as one case of it. -/
theorem registerInvariantAtReset : Obligations.RegisterInvariantAtReset :=
  ⟨fun _ t h legal => inv_create legal t h, inv_create Config.default_legal _ _⟩

/-- Settles O43: no commit stands in an empty history, and it leaves `ERR` at `NONE`. -/
theorem historyAgreementAtReset : Obligations.HistoryAgreementAtReset :=
  fun _ _ _ => ⟨rfl, fun _ _ commit => (nomatch commit), rfl⟩

section Operations

variable {s : State}

/-! One rule per operation on the state. -/

theorem State.Inv.respond (hs : s.Inv) (r : Response) : (s.respond r).Inv := { hs with }

theorem State.Inv.withInput (hs : s.Inv) (bs : List Byte) : (s.withInput bs).Inv := { hs with }

theorem State.Inv.delay (hs : s.Inv) (ms : Nat) : (s.delay ms).Inv := { hs with }

theorem State.Inv.clearErr (hs : s.Inv) : s.clearErr.Inv := { hs with }

theorem State.Inv.transportWrite (hs : s.Inv) (a : BusAddr) (bs : List Byte) : (s.transportWrite a bs).Inv :=
  { hs with }

theorem State.Inv.transportRead (hs : s.Inv) (a : BusAddr) (n : Nat) : (s.transportRead a n).Inv := { hs with }

theorem State.Inv.withAddr (hs : s.Inv) {a : BusAddr} (legal : a ≠ 0) : (s.withAddr a).Inv :=
  { hs with addr := legal }

theorem State.Inv.withPhase (hs : s.Inv) {p : Phase} (sound : p.Sound s.cfg.fmt) : (s.withPhase p).Inv :=
  { hs with phase := sound }

theorem State.Inv.raise (hs : s.Inv) (e : Err) : (s.raise e).Inv := { hs with phase := trivial }

/-- The one operation that writes the caches needs two converted values (R90). -/
theorem State.Inv.commitAndReturn (hs : s.Inv) {t h : Flt} (converted : Converted s.cfg.fmt t h) :
    (s.commitAndReturn t h).Inv := by
  have ⟨⟨c, ht⟩, ⟨d, hh⟩⟩ := converted
  exact { hs with
    tFormat := ht ▸ cvtT_fmt _ c
    hFormat := hh ▸ cvtH_fmt _ d
    caches := fun _ => converted
    phase := trivial }

/-! The sequencer: each phase leaves the transient state that the next one relies on. -/

theorem State.Inv.stepWrite (hs : s.Inv) : s.stepWrite.Inv := by
  have written := hs.transportWrite s.addr measurementCommand
  unfold State.stepWrite
  split
  · exact written.withPhase trivial
  · exact written.raise _

theorem State.Inv.stepRead (hs : s.Inv) : s.stepRead.Inv := by
  have done := hs.transportRead s.addr 6
  obtain ⟨failed, _⟩ | ⟨fb, _, _, filled⟩ := stepRead_cases s
  · rw [failed]; exact done.raise _
  · rw [filled]; exact done.withPhase rfl

theorem State.Inv.stepChkT (hs : s.Inv) (fb : Frame) : (s.stepChkT crcInit fb).Inv := by
  unfold State.stepChkT
  split
  case isTrue good => exact hs.withPhase ⟨(checkMatches_iff _ _ _).1 good, rfl⟩
  case isFalse => exact hs.raise _

theorem State.Inv.stepChkH (hs : s.Inv) (fb : Frame) {tTmp : Flt} (converted : ∃ c, tTmp = cvtT s.cfg.fmt c) :
    (s.stepChkH crcInit fb tTmp).Inv := by
  unfold State.stepChkH
  split
  · exact hs.withPhase converted
  · exact hs.raise _

/-- Every phase of an operation keeps the invariant. -/
theorem State.Inv.advance (hs : s.Inv) : s.advance.Inv := by
  have sound := hs.phase
  cases hp : s.phase with
  | idle => rw [advance_idle s hp]; exact hs
  | write => rw [advance_write s hp]; exact hs.stepWrite
  | wait => rw [advance_wait s hp]; exact (hs.delay _).withPhase trivial
  | read => rw [advance_read s hp]; exact hs.stepRead
  | chkT crc fb =>
    rw [hp] at sound
    obtain rfl := sound
    rw [advance_chkT s _ fb hp]; exact hs.stepChkT fb
  | cvtT fb tRaw =>
    rw [hp] at sound
    obtain ⟨good, rfl⟩ := sound
    rw [advance_cvtT s fb _ hp]; exact hs.withPhase ⟨rfl, good, rfl⟩
  | chkH crc fb tTmp =>
    rw [hp] at sound
    obtain ⟨rfl, _, converted⟩ := sound
    rw [advance_chkH s _ fb tTmp hp]; exact hs.stepChkH fb ⟨_, converted⟩
  | cvtH tTmp hRaw =>
    rw [hp] at sound
    rw [advance_cvtH s tTmp hRaw hp]; exact hs.withPhase ⟨sound, hRaw, rfl⟩
  | commit tTmp hTmp =>
    rw [hp] at sound
    rw [advance_commit s tTmp hTmp hp]; exact hs.commitAndReturn sound

theorem State.Inv.advanceN (hs : s.Inv) (n : Nat) : (s.advanceN n).Inv := by
  induction n generalizing s with
  | zero => exact hs
  | succ n ih => exact ih hs.advance

theorem State.Inv.beginMeas (hs : s.Inv) : s.beginMeas.Inv := hs.clearErr.withPhase trivial

theorem State.Inv.beginFrame (hs : s.Inv) (fb : Frame) : (s.beginFrame fb).Inv := hs.clearErr.withPhase rfl

/-- The probes of `SCAN` are transport writes, and no more. -/
theorem State.Inv.scanFrom (hs : s.Inv) (as : List BusAddr) : (scanFrom as s).2.Inv := by
  rw [scanFrom_state]
  induction as generalizing s with
  | nil => exact hs
  | cons a as ih => exact ih (hs.transportWrite a _)

/-! Meanings and steps. -/

/-- A legal address byte holds an address of R11. -/
theorem addressOfByte_ne_zero {a : Byte} (legal : addressByteLegal a = true) : addressOfByte a ≠ 0 := by
  obtain ⟨low, _⟩ := (addressByteLegal_iff a).1 legal
  intro zero
  have number : 0 = a.toNat := by rw [← toNat_addressOfByte legal, zero]; rfl
  omega

/-- Every meaning keeps the invariant. -/
theorem State.Inv.exec (hs : s.Inv) {i : Instr} {t : State} (h : exec i s = .next t) : t.Inv := by
  cases i with
  | crc8 hi lo => cases h; exact hs.respond _
  | chk hi lo ck => cases h; exact hs.respond _
  | cvtt hi lo => cases h; exact hs.respond _
  | cvth hi lo => cases h; exact hs.respond _
  | frame b0 b1 b2 b3 b4 b5 => cases h; exact (hs.beginFrame _).advanceN phaseCount
  | meas => cases h; exact hs.beginMeas.advanceN phaseCount
  | gett => cases h; exact hs.respond _
  | geth => cases h; exact hs.respond _
  | geterr => cases h; exact hs.respond _
  | setaddr a =>
    obtain ⟨legal, ends⟩ | ⟨_, ends⟩ := execSetaddr_cases a s
    · rw [ends] at h; cases h; exact (hs.withAddr (addressOfByte_ne_zero legal)).respond _
    · rw [ends] at h; cases h; exact hs.respond _
  | getaddr => cases h; exact hs.respond _
  | scan => cases h; exact (hs.scanFrom validAddresses).respond _

end Operations

/-- Settles O42, by the cases of a step: a phase of a busy machine, a packet executed, a reserved opcode answered. -/
theorem everyStepKeepsTheRegisterInvariant : Obligations.EveryStepKeepsTheRegisterInvariant := by
  intro s t hs h
  obtain ⟨_, rfl⟩ | ⟨_, i, rest, _, hexec⟩ | ⟨_, op, rest, _, rfl⟩ := step_cases s h
  · exact hs.advance
  · exact (hs.withInput rest).exec hexec
  · exact (hs.withInput rest).respond .refused

end Sys2Proof.Machine
end

section
/-! SUPPORT. An operation phase by phase (spec 10_state.md R19; 43_measure.md R91): the phases only go forward, so that
eight of them end the operation; then both readings of R19 as runs of phases, and what a phase leaves alone. -/

namespace Sys2Proof.Machine

/-- `u` has the parameters, the command stream and the registers of `s`. -/
structure State.SameRegisters (s u : State) : Prop where
  cfg : u.cfg = s.cfg
  input : u.input = s.input
  addr : u.addr = s.addr
  err : u.err = s.err
  haveFlag : u.haveFlag = s.haveFlag
  tVal : u.tVal = s.tVal
  hVal : u.hVal = s.hVal

/-- What one phase can do: after a call or a wait at most, go on to a later phase, raise an error, or commit. -/
inductive State.Advances (s : State) : State → Prop
  | goesOn (u : State) (p : Phase) (same : s.SameRegisters u) (later : s.phase.rank < p.rank) (busy : p ≠ .idle) :
      s.Advances (u.withPhase p)
  | fails (u : State) (e : Err) (same : s.SameRegisters u) : s.Advances (u.raise e)
  | commits (t h : Flt) (phase : s.phase = .commit t h) : s.Advances (s.commitAndReturn t h)

section Phases

variable {s : State}

theorem sameRegisters_refl (s : State) : s.SameRegisters s := ⟨rfl, rfl, rfl, rfl, rfl, rfl, rfl⟩

theorem sameRegisters_transportWrite (a : BusAddr) (bs : List Byte) : s.SameRegisters (s.transportWrite a bs) :=
  ⟨rfl, rfl, rfl, rfl, rfl, rfl, rfl⟩

theorem sameRegisters_transportRead (a : BusAddr) (n : Nat) : s.SameRegisters (s.transportRead a n) :=
  ⟨rfl, rfl, rfl, rfl, rfl, rfl, rfl⟩

theorem sameRegisters_delay (ms : Nat) : s.SameRegisters (s.delay ms) := ⟨rfl, rfl, rfl, rfl, rfl, rfl, rfl⟩

theorem Phase.rank_pos (p : Phase) : 1 ≤ p.rank := by cases p <;> simp [Phase.rank]

theorem Phase.rank_lt_of_busy {p : Phase} (busy : p ≠ .idle) : p.rank < Phase.idle.rank := by
  cases p <;> simp_all [Phase.rank]

theorem advances (busy : s.phase ≠ .idle) : s.Advances s.advance := by
  have same := sameRegisters_refl s
  cases hp : s.phase with
  | idle => exact absurd hp busy
  | write =>
    rw [advance_write s hp, State.stepWrite]
    split
    · exact .goesOn _ .wait (sameRegisters_transportWrite _ _) (by rw [hp]; decide) nofun
    · exact .fails _ _ (sameRegisters_transportWrite _ _)
  | wait =>
    rw [advance_wait s hp]
    exact .goesOn _ .read (sameRegisters_delay _) (by rw [hp]; decide) nofun
  | read =>
    rw [advance_read s hp]
    obtain ⟨failed, _⟩ | ⟨fb, _, _, filled⟩ := stepRead_cases s
    · rw [failed]; exact .fails _ _ (sameRegisters_transportRead _ _)
    · rw [filled]; exact .goesOn _ (.chkT _ _) (sameRegisters_transportRead _ _) (by simp [hp, Phase.rank]) nofun
  | chkT crc fb =>
    rw [advance_chkT s crc fb hp, State.stepChkT]
    split
    · exact .goesOn _ (.cvtT _ _) same (by simp [hp, Phase.rank]) nofun
    · exact .fails _ _ same
  | cvtT fb tRaw =>
    rw [advance_cvtT s fb tRaw hp]
    exact .goesOn _ (.chkH _ _ _) same (by simp [hp, Phase.rank]) nofun
  | chkH crc fb tTmp =>
    rw [advance_chkH s crc fb tTmp hp, State.stepChkH]
    split
    · exact .goesOn _ (.cvtH _ _) same (by simp [hp, Phase.rank]) nofun
    · exact .fails _ _ same
  | cvtH tTmp hRaw =>
    rw [advance_cvtH s tTmp hRaw hp]
    exact .goesOn _ (.commit _ _) same (by simp [hp, Phase.rank]) nofun
  | commit tTmp hTmp =>
    rw [advance_commit s tTmp hTmp hp]
    exact .commits _ _ hp

theorem State.Advances.rank_lt_rank {t : State} (h : s.Advances t) (busy : s.phase ≠ .idle) :
    s.phase.rank < t.phase.rank := by
  cases h with
  | goesOn _ _ _ later _ => exact later
  | fails => exact Phase.rank_lt_of_busy busy
  | commits => exact Phase.rank_lt_of_busy busy

/-- The phase that ends an operation sends its response. -/
theorem State.Advances.lastResponse {t : State} (h : s.Advances t) (ended : t.phase = .idle) :
    ∃ bs, t.lastResponse = some bs := by
  cases h with
  | goesOn _ _ _ _ busy => exact absurd ended busy
  | fails => exact ⟨_, lastResponse_respond _ _⟩
  | commits => exact ⟨_, lastResponse_respond _ _⟩

/-! Runs of phases. -/

/-- The next `k` phases find the machine busy. -/
def State.BusyFor (k : Nat) (s : State) : Prop := ∀ j < k, (s.advanceN j).phase ≠ .idle

theorem busyFor_succ_iff {k : Nat} : s.BusyFor (k + 1) ↔ s.phase ≠ .idle ∧ s.advance.BusyFor k := by
  simp only [State.BusyFor, Nat.forall_lt_succ_left]
  rfl

theorem State.BusyFor.mono {j k : Nat} (h : s.BusyFor k) (le : j ≤ k) : s.BusyFor j :=
  fun i lt => h i (lt.trans_le le)

/-- The operation in progress ends with the `k`-th phase from here, and with a response. -/
structure State.EndsIn (k : Nat) (s : State) : Prop where
  busy : s.BusyFor k
  idle : (s.advanceN k).phase = .idle
  response : ∃ bs, (s.advanceN k).lastResponse = some bs

/-- As the phases only go forward, those that are left bound the length of the run. -/
theorem exists_endsIn {n : Nat} (busy : s.phase ≠ .idle) (left : Phase.idle.rank ≤ s.phase.rank + n) :
    ∃ k, 1 ≤ k ∧ k ≤ n ∧ s.EndsIn k := by
  induction n generalizing s with
  | zero => exact absurd left (Nat.not_le.2 (Phase.rank_lt_of_busy busy))
  | succ n ih =>
    by_cases ended : s.advance.phase = .idle
    · exact ⟨1, le_rfl, by omega, busyFor_succ_iff.2 ⟨busy, nofun⟩, ended, (advances busy).lastResponse ended⟩
    · have forward := (advances busy).rank_lt_rank busy
      obtain ⟨k, _, most, busyFor, idle, response⟩ := ih ended (by omega)
      exact ⟨k + 1, by omega, by omega, busyFor_succ_iff.2 ⟨busy, busyFor⟩, idle, response⟩

theorem State.EndsIn.advanceN_eq_finish {k : Nat} (h : s.EndsIn k) (most : k ≤ phaseCount) :
    s.advanceN k = s.finish := by
  rw [State.finish, ← Nat.add_sub_of_le most, advanceN_add, advanceN_idle _ _ h.idle]

theorem run_succ {M : Host.Core} {s t : M.State} (h : M.step s = .next t) (k : Nat) :
    M.run (k + 1) s = M.run k t := by
  rw [Host.Core.run, h]

theorem phaseRun_succ {t : State} (h : phaseStep s = .next t) (k : Nat) : phaseRun (k + 1) s = phaseRun k t := by
  rw [phaseRun, h]

/-- Steps of a busy machine are its phases. -/
theorem core_run_of_busyFor {k : Nat} (h : s.BusyFor k) : core.run k s = .next (s.advanceN k) := by
  induction k generalizing s with
  | zero => rfl
  | succ k ih =>
    obtain ⟨busy, busyFor⟩ := busyFor_succ_iff.1 h
    exact (run_succ (M := core) (step_busy s busy) k).trans (ih busyFor)

/-- The same in the event-sequence reading. -/
theorem phaseRun_of_busyFor {k : Nat} (h : s.BusyFor k) : phaseRun k s = .next (s.advanceN k) := by
  induction k generalizing s with
  | zero => rfl
  | succ k ih =>
    obtain ⟨busy, busyFor⟩ := busyFor_succ_iff.1 h
    exact (phaseRun_succ (phaseStep_busy s busy) k).trans (ih busyFor)

/-- Settles O51: a phase goes forward, and eight are all there are. -/
theorem busyOperationGoesForwardAndEnds : Obligations.BusyOperationGoesForwardAndEnds := by
  intro s busy
  refine ⟨⟨s.advance, step_busy s busy, (advances busy).rank_lt_rank busy⟩, ?_⟩
  obtain ⟨k, _, most, ends⟩ := exists_endsIn busy (Nat.add_le_add_right (Phase.rank_pos s.phase) 8)
  obtain ⟨bs, response⟩ := ends.response
  rw [← ends.advanceN_eq_finish most]
  exact ⟨k, bs, most, core_run_of_busyFor ends.busy, ends.idle, response⟩

/-- A busy machine reaches the end of its operation step by step, busy until then. -/
theorem core_run_reaches_finish {n : Nat} (busy : s.phase ≠ .idle) (left : Phase.idle.rank ≤ s.phase.rank + n)
    (most : n ≤ phaseCount) :
    ∃ k, 1 ≤ k ∧ k ≤ n ∧ core.run k s = .next s.finish ∧
      ∀ j < k, ∃ u : State, core.run j s = .next u ∧ u.phase ≠ .idle := by
  obtain ⟨k, least, le, ends⟩ := exists_endsIn busy left
  rw [← ends.advanceN_eq_finish (le.trans most)]
  exact ⟨k, least, le, core_run_of_busyFor ends.busy,
    fun j lt => ⟨_, core_run_of_busyFor (ends.busy.mono lt.le), ends.busy j lt⟩⟩

/-- Settles O52: `MEAS` has eight phases left when it has begun, `FRAME` five. -/
theorem atomicAttemptEqualsItsPhases : Obligations.AtomicAttemptEqualsItsPhases :=
  ⟨fun _ => core_run_reaches_finish nofun le_rfl (by decide),
    fun _ _ _ _ _ _ _ => core_run_reaches_finish nofun le_rfl (by decide)⟩

/-! The event-sequence reading. -/

/-- A phase step of an idle machine, by what its command stream begins with. -/
theorem phaseStep_idle (idle : s.phase = .idle) :
    phaseStep s = match decode s.input with
      | .packet i rest => beginOperation i (s.withInput rest)
      | .reserved _ rest => .next (s.withInput rest).answerReserved
      | .incomplete op => .refused (.incompletePacket op)
      | .streamEnd => .refused .streamEnded := by
  cases s; cases idle; rfl

/-- Of the operations an idle machine begins only `MEAS` is left unfinished. -/
theorem phaseStep_idle_cases (idle : s.phase = .idle) :
    (∃ rest, decode s.input = .packet .meas rest ∧ phaseStep s = .next (s.withInput rest).beginMeas) ∨
    phaseStep s = step s := by
  rw [phaseStep_idle idle, step_idle s idle]
  cases found : decode s.input with
  | packet i rest =>
    by_cases meas : i = .meas
    · subst meas; exact .inl ⟨rest, rfl, rfl⟩
    · exact .inr (beginOperation_eq_exec _ i meas)
  | reserved => exact .inr rfl
  | incomplete => exact .inr rfl
  | streamEnd => exact .inr rfl

theorem phaseRun_one (s : State) : phaseRun 1 s = phaseStep s := by
  rw [phaseRun]
  cases phaseStep s <;> rfl

/-- Settles O53: `MEAS` takes one phase step to begin and at most eight to end; every other step is one phase step. -/
theorem phaseStepsReachTheStep : Obligations.PhaseStepsReachTheStep := by
  intro s idle
  obtain ⟨rest, found, begins⟩ | same := phaseStep_idle_cases idle
  · obtain ⟨k, least, most, ends⟩ := exists_endsIn (s := (s.withInput rest).beginMeas) (n := 8) nofun le_rfl
    refine ⟨k + 1, by omega, by omega, ?_, fun j hj lt => ?_⟩
    · rw [phaseRun_succ begins, phaseRun_of_busyFor ends.busy, ends.advanceN_eq_finish most, step_idle s idle, found]
      rfl
    · obtain ⟨j, rfl⟩ : ∃ i, j = i + 1 := ⟨j - 1, by omega⟩
      rw [phaseRun_succ begins]
      exact ⟨_, phaseRun_of_busyFor (ends.busy.mono (by omega)), ends.busy j (by omega)⟩
  · exact ⟨1, le_rfl, by omega, by rw [phaseRun_one, same], by omega⟩

/-! What a phase leaves alone. -/

/-- A phase keeps the parameters, the address and the command stream, and the caches unless it is the commit, which
keeps `ERR`. -/
theorem State.Advances.frame {t : State} (h : s.Advances t) :
    t.addr = s.addr ∧ t.input = s.input ∧ t.cfg = s.cfg ∧
      ((∃ x y, s.phase = .commit x y ∧ t.err = s.err) ∨
        t.tVal = s.tVal ∧ t.hVal = s.hVal ∧ t.haveFlag = s.haveFlag) := by
  cases h with
  | goesOn u p same => exact ⟨same.addr, same.input, same.cfg, .inr ⟨same.tVal, same.hVal, same.haveFlag⟩⟩
  | fails u e same => exact ⟨same.addr, same.input, same.cfg, .inr ⟨same.tVal, same.hVal, same.haveFlag⟩⟩
  | commits x y phase => exact ⟨rfl, rfl, rfl, .inl ⟨x, y, phase, rfl⟩⟩

/-- If a phase step answers a next state, it was a phase, or the beginning of `MEAS`, or a whole step. -/
theorem phaseStep_cases {t : State} (h : phaseStep s = .next t) :
    (s.phase ≠ .idle ∧ t = s.advance) ∨
    (s.phase = .idle ∧ ∃ rest, t = (s.withInput rest).beginMeas) ∨
    (s.phase = .idle ∧ step s = .next t) := by
  by_cases idle : s.phase = .idle
  · obtain ⟨rest, _, begins⟩ | same := phaseStep_idle_cases idle
    · exact .inr (.inl ⟨idle, rest, Host.Outcome.next.inj (h.symm.trans begins)⟩)
    · exact .inr (.inr ⟨idle, same.symm.trans h⟩)
  · exact .inl ⟨idle, Host.Outcome.next.inj (h.symm.trans (phaseStep_busy s idle))⟩

end Phases

/-- Settles O54, by the cases of a phase step: both invariants are kept by a phase, by the beginning of `MEAS` and by a
whole step; the frame is that of a phase. -/
theorem everyPhaseStepKeepsTheInvariants : Obligations.EveryPhaseStepKeepsTheInvariants := by
  intro s t h
  obtain ⟨busy, rfl⟩ | ⟨idle, rest, rfl⟩ | ⟨idle, steps⟩ := phaseStep_cases h
  · exact ⟨State.Inv.advance, State.FollowsHistory.advance, fun _ => (advances busy).frame⟩
  · exact ⟨fun hs => (hs.withInput rest).beginMeas, fun hs => (hs.withInput rest).beginMeas,
      fun busy => absurd idle busy⟩
  · exact ⟨fun hs => everyStepKeepsTheRegisterInvariant s t hs steps,
      fun hs => everyStepKeepsHistoryAgreement s t hs steps, fun busy => absurd idle busy⟩

end Sys2Proof.Machine
end

section
/-! SUPPORT. The unwritten caches (spec 93_implementation_defined.md U1; 10_state.md R23): two machines that differ in
nothing else stay so under every operation on the state, until a commit makes them one. -/

namespace Sys2Proof.Machine

/-- The machine with other contents in its caches; `HAVE` does not change. -/
def State.withContents (x y : Flt) (s : State) : State := { s with tVal := x, hVal := y }

/-- The two-state invariant: the same machine, or one that has not yet committed with two contents of its caches. -/
inductive State.Hidden (s : State) : State → Prop
  | same : s.Hidden s
  | unwritten (x y : Flt) (noCommit : s.haveFlag = false) : s.Hidden (s.withContents x y)

theorem hidden_of_agreeButCaches {s s' : State} (agree : AgreeButCaches s s') (noCommit : s.haveFlag = false) :
    s.Hidden s' := by
  rw [agree]
  exact .unwritten _ _ noCommit

section Operations

variable {s s' : State}

theorem State.Hidden.agreeButCaches (h : s.Hidden s') : AgreeButCaches s s' := by cases h <;> rfl

theorem State.Hidden.eq_of_haveFlag (h : s.Hidden s') (written : s.haveFlag = true) : s = s' := by
  cases h with
  | same => rfl
  | unwritten x y noCommit => cases noCommit.symm.trans written

/-- The rule behind the others: an operation that neither reads nor writes the caches and leaves `HAVE`. -/
theorem State.Hidden.map (h : s.Hidden s') (op : State → State)
    (commutes : ∀ x y, op (s.withContents x y) = (op s).withContents x y)
    (haveFlag : (op s).haveFlag = s.haveFlag) : (op s).Hidden (op s') := by
  cases h with
  | same => exact .same
  | unwritten x y noCommit => rw [commutes]; exact .unwritten x y (haveFlag.trans noCommit)

theorem State.Hidden.respond (h : s.Hidden s') (r : Response) : (s.respond r).Hidden (s'.respond r) :=
  h.map (·.respond r) (fun _ _ => rfl) rfl

theorem State.Hidden.withPhase (h : s.Hidden s') (p : Phase) : (s.withPhase p).Hidden (s'.withPhase p) :=
  h.map (·.withPhase p) (fun _ _ => rfl) rfl

theorem State.Hidden.withAddr (h : s.Hidden s') (a : BusAddr) : (s.withAddr a).Hidden (s'.withAddr a) :=
  h.map (·.withAddr a) (fun _ _ => rfl) rfl

theorem State.Hidden.clearErr (h : s.Hidden s') : s.clearErr.Hidden s'.clearErr :=
  h.map (·.clearErr) (fun _ _ => rfl) rfl

theorem State.Hidden.raise (h : s.Hidden s') (e : Err) : (s.raise e).Hidden (s'.raise e) :=
  h.map (·.raise e) (fun _ _ => rfl) rfl

theorem State.Hidden.delay (h : s.Hidden s') (ms : Nat) : (s.delay ms).Hidden (s'.delay ms) :=
  h.map (·.delay ms) (fun _ _ => rfl) rfl

theorem State.Hidden.transportWrite (h : s.Hidden s') (a : BusAddr) (bs : List Byte) :
    (s.transportWrite a bs).Hidden (s'.transportWrite a bs) :=
  h.map (·.transportWrite a bs) (fun _ _ => rfl) rfl

theorem State.Hidden.transportRead (h : s.Hidden s') (a : BusAddr) (n : Nat) :
    (s.transportRead a n).Hidden (s'.transportRead a n) :=
  h.map (·.transportRead a n) (fun _ _ => rfl) rfl

/-- The commit writes over the contents it finds (R90). -/
theorem State.Hidden.commitAndReturn (h : s.Hidden s') (x y : Flt) :
    (s.commitAndReturn x y).Hidden (s'.commitAndReturn x y) := by
  cases h <;> exact .same

/-! The two machines agree in all that a meaning or a phase looks at. -/

theorem State.Hidden.cfg (h : s.Hidden s') : s'.cfg = s.cfg := by cases h <;> rfl

theorem State.Hidden.addr (h : s.Hidden s') : s'.addr = s.addr := by cases h <;> rfl

theorem State.Hidden.err (h : s.Hidden s') : s'.err = s.err := by cases h <;> rfl

theorem State.Hidden.phase (h : s.Hidden s') : s'.phase = s.phase := by cases h <;> rfl

theorem State.Hidden.nextWrite (h : s.Hidden s') : s'.nextWrite = s.nextWrite := by cases h <;> rfl

theorem State.Hidden.nextRead (h : s.Hidden s') : s'.nextRead = s.nextRead := by cases h <;> rfl

/-! The sequencer. -/

theorem State.Hidden.stepWrite (h : s.Hidden s') : s.stepWrite.Hidden s'.stepWrite := by
  have written := h.transportWrite s.addr measurementCommand
  unfold State.stepWrite
  rw [h.nextWrite, h.addr]
  split
  · exact written.withPhase _
  · exact written.raise _

theorem State.Hidden.stepRead (h : s.Hidden s') : s.stepRead.Hidden s'.stepRead := by
  have done := h.transportRead s.addr 6
  unfold State.stepRead
  rw [h.nextRead, h.addr]
  split
  · exact done.raise _
  · split
    · exact done.raise _
    · exact done.withPhase _

theorem State.Hidden.stepChkT (h : s.Hidden s') (crc : Byte) (fb : Frame) :
    (s.stepChkT crc fb).Hidden (s'.stepChkT crc fb) := by
  unfold State.stepChkT
  split
  · exact h.withPhase _
  · exact h.raise _

theorem State.Hidden.stepChkH (h : s.Hidden s') (crc : Byte) (fb : Frame) (tTmp : Flt) :
    (s.stepChkH crc fb tTmp).Hidden (s'.stepChkH crc fb tTmp) := by
  unfold State.stepChkH
  split
  · exact h.withPhase _
  · exact h.raise _

/-- Every phase of an operation keeps the two machines alike. -/
theorem State.Hidden.advance (h : s.Hidden s') : s.advance.Hidden s'.advance := by
  have hp' := h.phase
  cases hp : s.phase with
  | idle => rw [hp] at hp'; rw [advance_idle s hp, advance_idle s' hp']; exact h
  | write => rw [hp] at hp'; rw [advance_write s hp, advance_write s' hp']; exact h.stepWrite
  | wait =>
    rw [hp] at hp'
    rw [advance_wait s hp, advance_wait s' hp', State.stepWait, State.stepWait, h.cfg]
    exact (h.delay _).withPhase _
  | read => rw [hp] at hp'; rw [advance_read s hp, advance_read s' hp']; exact h.stepRead
  | chkT crc fb => rw [hp] at hp'; rw [advance_chkT s _ _ hp, advance_chkT s' _ _ hp']; exact h.stepChkT crc fb
  | cvtT fb tRaw =>
    rw [hp] at hp'
    rw [advance_cvtT s _ _ hp, advance_cvtT s' _ _ hp', State.stepCvtT, State.stepCvtT, h.cfg]
    exact h.withPhase _
  | chkH crc fb tTmp =>
    rw [hp] at hp'
    rw [advance_chkH s _ _ _ hp, advance_chkH s' _ _ _ hp']
    exact h.stepChkH crc fb tTmp
  | cvtH tTmp hRaw =>
    rw [hp] at hp'
    rw [advance_cvtH s _ _ hp, advance_cvtH s' _ _ hp', State.stepCvtH, State.stepCvtH, h.cfg]
    exact h.withPhase _
  | commit tTmp hTmp =>
    rw [hp] at hp'
    rw [advance_commit s _ _ hp, advance_commit s' _ _ hp']
    exact h.commitAndReturn tTmp hTmp

theorem State.Hidden.advanceN (h : s.Hidden s') (n : Nat) : (s.advanceN n).Hidden (s'.advanceN n) := by
  induction n generalizing s s' with
  | zero => exact h
  | succ n ih => exact ih h.advance

theorem State.Hidden.finish (h : s.Hidden s') : s.finish.Hidden s'.finish := h.advanceN phaseCount

/-! Meanings. -/

/-- `SCAN` makes the same probes and finds the same addresses. -/
theorem State.Hidden.scanFrom (h : s.Hidden s') (as : List BusAddr) :
    (scanFrom as s').1 = (scanFrom as s).1 ∧ (scanFrom as s).2.Hidden (scanFrom as s').2 := by
  induction as generalizing s s' with
  | nil => exact ⟨rfl, h⟩
  | cons a as ih =>
    have probed : (s.probe a).Hidden (s'.probe a) := by
      rw [State.probe, State.probe, h.cfg]
      exact h.transportWrite a _
    obtain ⟨found, left⟩ := ih probed
    simp only [Machine.scanFrom, h.nextWrite]
    split
    · exact ⟨congrArg (a :: ·) found, left⟩
    · exact ⟨found, left⟩

/-- Every meaning but those of `GETT` and `GETH` keeps the two machines alike. -/
theorem State.Hidden.exec (h : s.Hidden s') {i : Instr} (notGett : i ≠ .gett) (notGeth : i ≠ .geth) :
    ∃ t t', exec i s = .next t ∧ exec i s' = .next t' ∧ t.Hidden t' := by
  cases i with
  | crc8 hi lo => exact ⟨_, _, rfl, rfl, h.respond _⟩
  | chk hi lo ck => exact ⟨_, _, rfl, rfl, h.respond _⟩
  | cvtt hi lo => exact ⟨_, _, rfl, rfl, by rw [h.cfg]; exact h.respond _⟩
  | cvth hi lo => exact ⟨_, _, rfl, rfl, by rw [h.cfg]; exact h.respond _⟩
  | frame b0 b1 b2 b3 b4 b5 => exact ⟨_, _, rfl, rfl, (h.clearErr.withPhase _).finish⟩
  | meas => exact ⟨_, _, rfl, rfl, (h.clearErr.withPhase _).finish⟩
  | gett => exact absurd rfl notGett
  | geth => exact absurd rfl notGeth
  | geterr => exact ⟨_, _, rfl, rfl, by rw [h.err]; exact h.respond _⟩
  | setaddr a =>
    refine ⟨_, _, rfl, rfl, ?_⟩
    split
    · exact (h.withAddr _).respond _
    · exact h.respond _
  | getaddr => exact ⟨_, _, rfl, rfl, by rw [h.addr]; exact h.respond _⟩
  | scan =>
    obtain ⟨found, left⟩ := h.scanFrom validAddresses
    exact ⟨_, _, exec_scan s, exec_scan s', by rw [found]; exact left.respond _⟩

end Operations

/-- Settles O55: the two machines stay alike under every phase and so under every meaning, and a commit makes them
one. -/
theorem unwrittenCachesAreUnobservable : Obligations.UnwrittenCachesAreUnobservable := by
  intro i s s' agree noCommit notGett notGeth
  obtain ⟨t, t', answers, answers', hidden⟩ := (hidden_of_agreeButCaches agree noCommit).exec notGett notGeth
  exact ⟨t, t', answers, answers', hidden.agreeButCaches, hidden.eq_of_haveFlag⟩

end Sys2Proof.Machine
end

section
/-! SUPPORT. Floats as bytes (spec 30_encoding.md R44, R54): the bytes of a number read as one big-endian number again. -/

namespace Sys2Proof.Machine

/-- The last byte is the low one, and those before it are the bytes of the number without it. -/
theorem bytesBE_succ (n : Nat) {w : Nat} (x : BitVec w) :
    bytesBE (n + 1) x = bytesBE n (x >>> 8) ++ [x.extractLsb' 0 8] := by
  rw [bytesBE, List.range_succ, List.map_append, bytesBE]
  congr 1
  · refine List.map_congr_left fun i hi => ?_
    have place : 8 * (n + 1 - 1 - i) = 8 + 8 * (n - 1 - i) := by
      have := List.mem_range.1 hi
      omega
    rw [place]
    simp [← BitVec.toNat_inj, Nat.shiftRight_add]
  · simp

/-- The number that bytes sent most significant first stand for. -/
def beNumber (bs : List Byte) : Nat := bs.foldl (fun n b => n * 256 + b.toNat) 0

theorem beNumber_append_singleton (bs : List Byte) (b : Byte) : beNumber (bs ++ [b]) = beNumber bs * 256 + b.toNat := by
  simp [beNumber]

theorem beNumber_bytesBE (n : Nat) {w : Nat} (x : BitVec w) : beNumber (bytesBE n x) = x.toNat % 256 ^ n := by
  induction n generalizing x with
  | zero => simp [bytesBE, beNumber, Nat.mod_one]
  | succ n ih =>
    have shifted : x.toNat >>> 8 = x.toNat / 256 := Nat.shiftRight_eq_div_pow _ 8
    rw [bytesBE_succ, beNumber_append_singleton, ih, BitVec.extractLsb'_toNat, BitVec.toNat_ushiftRight,
      Nat.shiftRight_zero, shifted, pow_succ' 256, Nat.mod_mul]
    omega

/-- Settles O10: the eight bytes hold 64 bits, and the four 32. -/
theorem floatsAreSentBigEndian : Obligations.FloatsAreSentBigEndian :=
  ⟨fun x => ⟨length_bytesBE 8 x, (beNumber_bytesBE 8 x).trans (Nat.mod_eq_of_lt x.isLt)⟩,
    fun x => ⟨length_bytesBE 4 x, (beNumber_bytesBE 4 x).trans (Nat.mod_eq_of_lt x.isLt)⟩⟩

/-- The number of bytes of a float, by its format. -/
theorem length_floatBytes (v : Flt) :
    (floatBytes v).length = match v.fmt with | .binary64 => 8 | .binary32 => 4 := by
  cases v <;> exact length_bytesBE _ _

/-- Settles O9: each packet by the definition of `Response.bytes`, and the length of the floats in it. -/
theorem responsePacketsAreAsTabulated : Obligations.ResponsePacketsAreAsTabulated :=
  ⟨fun _ => rfl, rfl, rfl, fun _ => rfl, fun _ _ => rfl, rfl, fun _ => rfl, fun _ => rfl, fun _ => rfl, rfl, rfl,
    fun _ => rfl, fun _ => rfl, length_floatBytes⟩

end Sys2Proof.Machine
end

section
/-! SUPPORT. The checksum as algebra (spec 41_checksum.md section 4): `crc_step` is linear over XOR and one-to-one, so
`crc8` is affine and one-to-one in each byte; then what `CRC8` and `CHK` answer. -/

namespace Sys2Proof.Machine

/-! `crc_step`. -/

/-- What is fed back into the register for the bit shifted out. -/
def crcFeedback (out : Bool) : Byte := if out then 0x31 else 0

theorem crcFeedback_xor (m n : Bool) : crcFeedback (m ^^ n) = crcFeedback m ^^^ crcFeedback n := by
  cases m <;> cases n <;> rfl

theorem crcShift_eq (c : Byte) : crcShift c = c <<< 1 ^^^ crcFeedback c.msb := by
  cases h : c.msb <;> simp [crcShift, crcFeedback, h]

theorem crcShift_xor (a b : Byte) : crcShift (a ^^^ b) = crcShift a ^^^ crcShift b := by
  simp only [crcShift_eq, BitVec.msb_xor, BitVec.shiftLeft_xor_distrib, crcFeedback_xor]
  ac_rfl

/-- The bit shifted in is zero and 0x31 is odd, so the low bit tells what was shifted out. -/
theorem eq_zero_of_crcShift {c : Byte} (h : crcShift c = 0) : c = 0 := by
  cases out : c.msb with
  | true =>
    have low := congrArg (·.getLsbD 0) h
    simp [crcShift, out] at low
  | false =>
    have shifted : c <<< 1 = 0 := by simpa [crcShift, out] using h
    have small := BitVec.msb_eq_false_iff_two_mul_lt.1 out
    bv_omega

theorem crcStep_xor (a b : Byte) : crcStep (a ^^^ b) = crcStep a ^^^ crcStep b := by
  have linear : ∀ n, Nat.repeat crcShift n (a ^^^ b) = Nat.repeat crcShift n a ^^^ Nat.repeat crcShift n b := by
    intro n
    induction n with
    | zero => rfl
    | succ n ih => rw [Nat.repeat, ih, crcShift_xor]; rfl
  exact linear 8

theorem eq_zero_of_crcStep {c : Byte} (h : crcStep c = 0) : c = 0 := by
  have back : ∀ n, Nat.repeat crcShift n c = 0 → c = 0 := by
    intro n
    induction n with
    | zero => exact id
    | succ n ih => exact fun zero => ih (eq_zero_of_crcShift zero)
  exact back 8 h

theorem crcStep_injective : Function.Injective crcStep := by
  intro a b h
  refine BitVec.xor_eq_zero_iff.1 (eq_zero_of_crcStep ?_)
  rw [crcStep_xor, h]
  exact BitVec.xor_self

theorem crcStep_bijective : Function.Bijective crcStep := Finite.injective_iff_bijective.1 crcStep_injective

/-- One more pass over a byte gives zero exactly for that byte. -/
theorem crcStep_xor_eq_zero_iff (a b : Byte) : crcStep (a ^^^ b) = 0 ↔ b = a := by
  rw [crcStep_xor]
  exact BitVec.xor_eq_zero_iff.trans (crcStep_injective.eq_iff.trans eq_comm)

/-! `crc8`. -/

theorem xor_bijective (a : Byte) : Function.Bijective fun b : Byte => a ^^^ b :=
  Function.Involutive.bijective fun b => by rw [← BitVec.xor_assoc, BitVec.xor_self, BitVec.zero_xor]

theorem crc8_bijective_low (h : Byte) : Function.Bijective fun l => crc8 h l :=
  crcStep_bijective.comp (xor_bijective _)

theorem crc8_bijective_high (l : Byte) : Function.Bijective fun h => crc8 h l := by
  have swap : (fun h => crc8 h l) = crcStep ∘ (l ^^^ ·) ∘ crcStep ∘ (crcInit ^^^ ·) := by
    funext h
    rw [crc8, crcRun, BitVec.xor_comm _ l]; rfl
  rw [swap]
  exact crcStep_bijective.comp ((xor_bijective l).comp (crcStep_bijective.comp (xor_bijective crcInit)))

/-- The constant part and the parts of the two bytes. -/
theorem crc8_eq_xor (h l : Byte) : crc8 h l = 0x81 ^^^ crcStep (crcStep h) ^^^ crcStep l := by
  have constant : crcStep (crcStep crcInit) = 0x81 := by decide +kernel
  rw [crc8, crcRun, crcStep_xor, crcStep_xor, crcStep_xor, constant]

theorem crc8_affine (h1 l1 h2 l2 : Byte) :
    crc8 (h1 ^^^ h2) (l1 ^^^ l2) = crc8 h1 l1 ^^^ crc8 h2 l2 ^^^ 0x81 := by
  have cancel : (0x81 : Byte) = 0x81 ^^^ 0x81 ^^^ 0x81 := by decide
  simp only [crc8_eq_xor, crcStep_xor]
  rw [cancel]
  ac_rfl

/-- Settles O14: linear and one-to-one through each of the eight iterations, then the two passes of `crc8`. -/
theorem crcIsAffineAndBijective : Obligations.CrcIsAffineAndBijective :=
  ⟨crcStep_bijective, crcStep_xor, crc8_bijective_low, crc8_bijective_high, crc8_affine,
    fun h l ck => crcStep_xor_eq_zero_iff (crc8 h l) ck⟩

/-! A flipped bit. -/

theorem xor_twoPow_ne (b : Byte) {k : Nat} (hk : k < 8) : b ^^^ BitVec.twoPow 8 k ≠ b := by
  intro same
  have bit := congrArg (·.getLsbD k) same
  simp [hk] at bit

theorem checkMatches_eq_false_iff (h l ck : Byte) : checkMatches crcInit h l ck = false ↔ crc8 h l ≠ ck := by
  rw [← Bool.not_eq_true, checkMatches_iff]

/-- Settles O15: the checksum is one-to-one in each byte, and another check byte is not the checksum. -/
theorem singleBitErrorsAreDetected : Obligations.SingleBitErrorsAreDetected := by
  intro h l k hk
  simp only [checkMatches_iff, checkMatches_eq_false_iff]
  exact ⟨trivial, (crc8_bijective_high l).injective.ne (xor_twoPow_ne h hk),
    (crc8_bijective_low h).injective.ne (xor_twoPow_ne l hk), (xor_twoPow_ne _ hk).symm⟩

/-! The table. -/

/-- Settles O13: the 256 entries computed; `crc8` passes each byte through `crc_step` once. -/
theorem crcIsTheTable : Obligations.CrcIsTheTable := by
  unfold Obligations.CrcIsTheTable
  intro tab
  have entries : ∀ x : Byte, tab[x.toNat]? = some (crcStep x) := by decide +kernel
  exact ⟨entries, fun h l => ⟨_, entries _, entries _⟩⟩

/-! `CRC8` and `CHK`. -/

/-- Settles O16: the response by definition, and the examples computed. -/
theorem crc8AnswersTheChecksum : Obligations.Crc8AnswersTheChecksum :=
  ⟨fun _ _ _ => ⟨rfl, rfl⟩, by decide +kernel⟩

theorem exec_chk (hi lo ck : Byte) (s : State) :
    exec (.chk hi lo ck) s = .next (s.respond (.verdict (checkMatches crcInit hi lo ck))) := rfl

theorem bytes_verdict_checkMatches (hi lo ck : Byte) :
    (Response.verdict (checkMatches crcInit hi lo ck)).bytes = [0x01, if crc8 hi lo = ck then 0x01 else 0x00] := by
  simp only [Response.bytes, verdictByte, checkMatches_iff]

/-- Settles O17: the verdict is the comparison with `crc8`, which one check byte passes. -/
theorem chkAnswersTheVerdict : Obligations.ChkAnswersTheVerdict := by
  refine ⟨fun hi lo ck s => ⟨rfl, ?_⟩, fun hi lo s => ⟨crc8 hi lo, ?_, ?_⟩, by decide +kernel⟩
  · rw [exec_chk, respond_eq, bytes_verdict_checkMatches]
  · refine ⟨_, exec_chk _ _ _ s, ?_⟩
    rw [lastResponse_respond, bytes_verdict_checkMatches, if_pos rfl]
  · rintro ck ⟨t, answers, isMatch⟩
    rw [exec_chk] at answers; cases answers
    rw [lastResponse_respond, bytes_verdict_checkMatches] at isMatch
    by_contra differs
    rw [if_neg (Ne.symm differs)] at isMatch
    exact absurd isMatch (by decide)

end Sys2Proof.Machine
end

section
/-! SUPPORT. The error of a rounding (spec 42_convert.md R74): at most the last place of the format, and none for an
integer that fits the precision. -/

namespace Sys2Proof.Machine

/-- Settles O20: a rounded quotient in this range is normal and keeps its value. -/
theorem encodingCarriesTheValue : Obligations.EncodingCarriesTheValue :=
  fun f _ _ h hden low high => ⟨Binary.encode_fmt f _, rn_encode_normal h hden low high⟩

section Rounded

variable {f : Fmt} {num : ℤ} {den : ℕ}

theorem rn_value_eq (h : num ≠ 0) :
    (rn f num den).value = (if num < 0 then -1 else 1) * 2 ^ (rn f num den).exp * (rn f num den).mant := by
  rw [Binary.value_eq, rn_neg h]
  simp only [decide_eq_true_eq]

theorem quotient_eq (num : ℤ) (den : ℕ) :
    (num : ℚ) / den = (if num < 0 then -1 else 1) * |(num : ℚ) / den| := by
  rw [abs_div, Nat.abs_cast]
  split
  case isTrue neg => rw [abs_of_neg (mod_cast neg)]; ring
  case isFalse nonneg => rw [abs_of_nonneg (mod_cast not_lt.1 nonneg)]; ring

/-- The distance of a rounded value is that of its mantissa, in units of the last place. -/
theorem abs_rn_value_sub (h : num ≠ 0) :
    |(rn f num den).value - num / den| =
      2 ^ (rn f num den).exp * |(|(num : ℚ) / den| / 2 ^ (rn f num den).exp - (rn f num den).mant)| := by
  have unit : (0 : ℚ) < 2 ^ (rn f num den).exp := by positivity
  have sign : |(if num < 0 then -1 else 1 : ℚ)| = 1 := by split <;> simp
  have factored : (rn f num den).value - num / den = (if num < 0 then -1 else 1) *
      (2 ^ (rn f num den).exp * ((rn f num den).mant - |(num : ℚ) / den| / 2 ^ (rn f num den).exp)) := by
    rw [rn_value_eq h, mul_sub, mul_div_cancel₀ _ unit.ne', mul_sub, ← mul_assoc, ← quotient_eq num den]
  rw [factored, abs_mul, sign, one_mul, abs_mul, abs_of_pos unit, abs_sub_comm]

/-- A rounding is off by at most one part in `2^p`. -/
theorem abs_rn_value_sub_le (hden : 0 < den) :
    |(rn f num den).value - num / den| ≤ |(num : ℚ) / den| / 2 ^ precision f := by
  rcases eq_or_ne num 0 with rfl | h
  · simp [Binary.value, Binary.signed]
  · obtain ⟨near, -⟩ := rn_mant_nearest (f := f) h hden
    obtain ⟨low, -⟩ := rn_exp_bounds h hden
    have place : (2 : ℚ) ^ (rn f num den).exp * (1 / 2) = 2 ^ floorLog2 num.natAbs den / 2 ^ precision f := by
      rw [rn_exp h, zpow_add₀ two_ne_zero, zpow_sub₀ two_ne_zero, zpow_natCast]
      ring
    calc |(rn f num den).value - num / den| ≤ 2 ^ (rn f num den).exp * (1 / 2) := by
          rw [abs_rn_value_sub h]; gcongr
      _ ≤ |(num : ℚ) / den| / 2 ^ precision f := by rw [place]; gcongr

/-- The place of the last bit is no fraction of an integer of at most `p` bits. -/
theorem rn_exp_nonpos (h : num ≠ 0) (hden : 0 < den) (fits : |(num : ℚ) / den| < 2 ^ precision f) :
    (rn f num den).exp ≤ 0 := by
  obtain ⟨low, -⟩ := rn_exp_bounds h hden
  rw [← zpow_natCast] at fits
  have below := (zpow_lt_zpow_iff_right₀ (one_lt_two (α := ℚ))).1 (low.trans_lt fits)
  rw [rn_exp h]
  omega

/-- An integer of at most `p` bits is not rounded. -/
theorem rn_value_of_integer (hden : 0 < den) {z : ℤ} (integer : (num : ℚ) / den = z)
    (fits : |(z : ℚ)| < 2 ^ precision f) : (rn f num den).value = z := by
  rcases eq_or_ne num 0 with rfl | h
  · rw [← integer]
    simp [Binary.value, Binary.signed]
  · obtain ⟨near, -⟩ := rn_mant_nearest (f := f) h hden
    have place : (2 : ℚ) ^ (rn f num den).exp = (2 ^ (-(rn f num den).exp).toNat)⁻¹ := by
      rw [two_zpow_eq_div, Int.toNat_of_nonpos (rn_exp_nonpos h hden (integer ▸ fits)), pow_zero, one_div]
    have scaled : |(num : ℚ) / den| / 2 ^ (rn f num den).exp = (|z| * 2 ^ (-(rn f num den).exp).toNat : ℤ) := by
      rw [integer, place, div_inv_eq_mul]
      push_cast
      rfl
    have whole : |(num : ℚ) / den| / 2 ^ (rn f num den).exp - (rn f num den).mant = 0 := by
      rw [scaled] at near ⊢
      have close : |(|z| * 2 ^ (-(rn f num den).exp).toNat : ℤ) - ((rn f num den).mant : ℤ)| < 1 := by
        exact_mod_cast near.trans_lt (one_half_lt_one (α := ℚ))
      exact_mod_cast Int.abs_lt_one_iff.1 close
    have distance := abs_rn_value_sub (f := f) (den := den) h
    rw [whole, abs_zero, mul_zero, abs_eq_zero, sub_eq_zero] at distance
    rw [distance, integer]

end Rounded

end Sys2Proof.Machine
end

section
/-! SUPPORT. The two conversions as real numbers (spec 42_convert.md R76 to R82): how near they are to the exact value,
that they are normal, that they increase, where they are exact, and their range. -/

namespace Sys2Proof.Machine

variable (f : Fmt) (c : Count)

/-! The exact values. -/

/-- The exact quotient of R76, before 45 is taken off. -/
def exactSpan : ℚ := 175 * c.toNat / 65535

/-- The exact relative humidity of R78. -/
def exactHumidity : ℚ := 100 * c.toNat / 65535

theorem exactSpan_nonneg : 0 ≤ exactSpan c := by rw [exactSpan]; positivity

theorem exactHumidity_nonneg : 0 ≤ exactHumidity c := by rw [exactHumidity]; positivity

theorem toNat_count_le : (c.toNat : ℚ) ≤ 65535 := mod_cast Nat.le_of_lt_succ c.isLt

theorem exactSpan_le : exactSpan c ≤ 175 := by
  have := toNat_count_le c
  rw [exactSpan]
  linarith

theorem exactHumidity_le : exactHumidity c ≤ 100 := by
  have := toNat_count_le c
  rw [exactHumidity]
  linarith

/-- No count has a temperature within 25/65535 of 0. -/
theorem abs_exactSpan_sub_ge : (25 : ℚ) / 65535 ≤ |exactSpan c - 45| := by
  have apart : (25 : ℤ) ≤ |175 * (c.toNat : ℤ) - 45 * 65535| := by
    rw [le_abs]
    omega
  have scaled : exactSpan c - 45 = (175 * (c.toNat : ℤ) - 45 * 65535 : ℤ) / 65535 := by
    rw [exactSpan]; push_cast; ring
  rw [scaled, abs_div, abs_of_pos (by norm_num : (0 : ℚ) < 65535)]
  gcongr
  exact_mod_cast apart

/-! The rounded values. -/

/-- The first rounding of R76. -/
def roundedSpan : Binary := rn f (c.toNat * 175 : ℕ) 65535

theorem temperature_eq : temperature f c = rn f ((roundedSpan f c).subNum 45) (roundedSpan f c).den := rfl

theorem humidity_eq : humidity f c = rn f (c.toNat * 100 : ℕ) 65535 := rfl

theorem roundedSpan_quotient : (((c.toNat * 175 : ℕ) : ℤ) : ℚ) / (65535 : ℕ) = exactSpan c := by
  rw [exactSpan]; push_cast; ring

theorem humidity_quotient : (((c.toNat * 100 : ℕ) : ℤ) : ℚ) / (65535 : ℕ) = exactHumidity c := by
  rw [exactHumidity]; push_cast; ring

variable {f c}

/-- Both formats round a value up to 256 by at most 2^-16. -/
theorem rn_value_near {num : ℤ} {den : ℕ} {x : ℚ} (hden : 0 < den) (quotient : (num : ℚ) / den = x)
    (small : |x| ≤ 2 ^ 8) : |(rn f num den).value - x| ≤ 1 / 2 ^ 16 := by
  have bits : (2 : ℚ) ^ 24 ≤ 2 ^ precision f := by cases f <;> norm_num [precision]
  subst quotient
  calc |(rn f num den).value - num / den| ≤ |(num : ℚ) / den| / 2 ^ precision f := abs_rn_value_sub_le hden
    _ ≤ 2 ^ 8 / 2 ^ 24 := by gcongr
    _ = 1 / 2 ^ 16 := by norm_num

variable (f c)

theorem roundedSpan_near : |(roundedSpan f c).value - exactSpan c| ≤ 1 / 2 ^ 16 := by
  refine rn_value_near (by norm_num) (roundedSpan_quotient c) ?_
  rw [abs_of_nonneg (exactSpan_nonneg c)]
  linarith [exactSpan_le c]

theorem humidity_near : |(humidity f c).value - exactHumidity c| ≤ 1 / 2 ^ 16 := by
  refine rn_value_near (by norm_num) (humidity_quotient c) ?_
  rw [abs_of_nonneg (exactHumidity_nonneg c)]
  linarith [exactHumidity_le c]

/-- The difference that is rounded second is small, and is not near zero. -/
theorem abs_roundedSpan_sub_bounds :
    1 / 2 ^ 12 ≤ |(roundedSpan f c).value - 45| ∧ |(roundedSpan f c).value - 45| ≤ 2 ^ 8 := by
  have near := roundedSpan_near f c
  have apart := abs_exactSpan_sub_ge c
  have low := exactSpan_nonneg c
  have high := exactSpan_le c
  have triangle := abs_sub_abs_le_abs_sub (exactSpan c - 45) ((roundedSpan f c).value - 45)
  rw [sub_sub_sub_cancel_right, abs_sub_comm (exactSpan c) (roundedSpan f c).value] at triangle
  constructor
  · linarith
  · rw [abs_le] at near ⊢
    constructor <;> linarith

theorem temperature_near : |(temperature f c).value - (exactSpan c - 45)| ≤ 1 / 2 ^ 15 := by
  have first := roundedSpan_near f c
  have second : |(temperature f c).value - ((roundedSpan f c).value - 45)| ≤ 1 / 2 ^ 16 := by
    rw [temperature_eq]
    exact rn_value_near (Binary.den_pos _) (Binary.subNum_div_den _ 45) (abs_roundedSpan_sub_bounds f c).2
  rw [abs_le] at first second ⊢
  constructor <;> linarith

/-! The encodings. -/

theorem cvtT_normal : (cvtT f c).Normal ∧ (cvtT f c).value = (temperature f c).value := by
  obtain ⟨low, high⟩ := abs_roundedSpan_sub_bounds f c
  have quotient := Binary.subNum_div_den (roundedSpan f c) 45
  rw [Nat.cast_ofNat] at quotient
  rw [cvtT, temperature_eq]
  refine rn_encode_normal ?_ (Binary.den_pos _) ?_ ?_
  · intro zero
    rw [zero, Int.cast_zero, zero_div] at quotient
    rw [← quotient, abs_zero] at low
    norm_num at low
  · rw [quotient]
    exact le_trans (by norm_num) low
  · rw [quotient]
    exact high.trans (by norm_num)

theorem cvtH_value : (cvtH f c).value = (humidity f c).value := (humidityRoundsOnce f c).2

variable {c} in
theorem cvtH_normal (nonzero : c ≠ 0) : (cvtH f c).Normal := by
  have positive : 0 < c.toNat := Nat.pos_of_ne_zero (BitVec.toNat_ne.1 nonzero)
  have least : (1 : ℚ) ≤ c.toNat := mod_cast positive
  rw [cvtH, humidity_eq]
  refine (rn_encode_normal (by omega) (by norm_num) ?_ ?_).1
  · rw [humidity_quotient, abs_of_nonneg (exactHumidity_nonneg c)]
    calc (2 : ℚ) ^ (-100 : ℤ) ≤ 100 * 1 / 65535 := by norm_num
      _ ≤ exactHumidity c := by rw [exactHumidity]; gcongr
  · rw [humidity_quotient, abs_of_nonneg (exactHumidity_nonneg c)]
    exact (exactHumidity_le c).trans (by norm_num)

theorem cvtH_zero : (cvtH f 0).PlusZero := Binary.encode_zero f

/-- Settles O23: the temperature is never near zero, the humidity only for the count 0. -/
theorem conversionsGiveNormalNumbersOrPlusZero : Obligations.ConversionsGiveNormalNumbersOrPlusZero := by
  refine fun f c => ⟨cvtT_fmt f c, (cvtT_normal f c).1, cvtH_fmt f c, cvtH_normal f, ?_⟩
  rintro rfl
  exact cvtH_zero f

/-! Order. -/

/-- Values near two others that are apart are in the same order. -/
theorem lt_of_near {a b x y : ℚ} (hx : |a - x| ≤ 1 / 2 ^ 15) (hy : |b - y| ≤ 1 / 2 ^ 15)
    (apart : x + 100 / 65535 ≤ y) :
    a < b := by
  rw [abs_le] at hx hy
  linarith

variable {c} {d : Count}

theorem cvtT_value_lt (lt : c.toNat < d.toNat) : (cvtT f c).value < (cvtT f d).value := by
  have next : (c.toNat : ℚ) + 1 ≤ d.toNat := mod_cast lt
  rw [(cvtT_normal f c).2, (cvtT_normal f d).2]
  refine lt_of_near (temperature_near f c) (temperature_near f d) ?_
  rw [exactSpan, exactSpan]
  linarith

theorem cvtH_value_lt (lt : c.toNat < d.toNat) : (cvtH f c).value < (cvtH f d).value := by
  have next : (c.toNat : ℚ) + 1 ≤ d.toNat := mod_cast lt
  have closer : (1 : ℚ) / 2 ^ 16 ≤ 1 / 2 ^ 15 := by norm_num
  rw [cvtH_value, cvtH_value]
  refine lt_of_near ((humidity_near f c).trans closer) ((humidity_near f d).trans closer) ?_
  rw [exactHumidity, exactHumidity]
  linarith

theorem cvtT_value_le (le : c.toNat ≤ d.toNat) : (cvtT f c).value ≤ (cvtT f d).value := by
  rcases le.lt_or_eq with lt | eq
  · exact (cvtT_value_lt f lt).le
  · rw [BitVec.eq_of_toNat_eq eq]

theorem cvtH_value_le (le : c.toNat ≤ d.toNat) : (cvtH f c).value ≤ (cvtH f d).value := by
  rcases le.lt_or_eq with lt | eq
  · exact (cvtH_value_lt f lt).le
  · rw [BitVec.eq_of_toNat_eq eq]

/-! Exact results: 65535 is 5 * 13107, and every fifth of the range is a whole number of degrees and of percent. -/

theorem count_le_five_fifths {k : ℕ} (fifth : c.toNat = 13107 * k) : (k : ℚ) ≤ 5 := by
  have := c.isLt
  exact_mod_cast (by omega : k ≤ 5)

/-- Both formats hold an integer up to 256 exactly. -/
theorem rn_value_of_small {f : Fmt} {num z : ℤ} {den : ℕ} (hden : 0 < den) (integer : (num : ℚ) / den = z)
    (small : |(z : ℚ)| ≤ 2 ^ 8) : (rn f num den).value = z :=
  rn_value_of_integer hden integer (small.trans_lt (by cases f <;> norm_num [precision]))

theorem cvtT_value_of_fifth {k : ℕ} (fifth : c.toNat = 13107 * k) : (cvtT f c).value = 35 * k - 45 := by
  have most := count_le_five_fifths fifth
  have least : (0 : ℚ) ≤ k := k.cast_nonneg
  have span : (roundedSpan f c).value = (35 * k : ℤ) := by
    refine rn_value_of_small (by norm_num) ?_ ?_
    · rw [roundedSpan_quotient, exactSpan, fifth]; push_cast; ring
    · push_cast; rw [abs_le]; constructor <;> linarith
  have difference : (temperature f c).value = (35 * k - 45 : ℤ) := by
    rw [temperature_eq]
    refine rn_value_of_small (Binary.den_pos _) ?_ ?_
    · rw [Binary.subNum_div_den, span]; push_cast; rfl
    · push_cast; rw [abs_le]; constructor <;> linarith
  rw [(cvtT_normal f c).2, difference]
  push_cast
  rfl

theorem cvtH_value_of_fifth {k : ℕ} (fifth : c.toNat = 13107 * k) : (cvtH f c).value = 20 * k := by
  have most := count_le_five_fifths fifth
  have least : (0 : ℚ) ≤ k := k.cast_nonneg
  have exact : (humidity f c).value = (20 * k : ℤ) := by
    rw [humidity_eq]
    refine rn_value_of_small (by norm_num) ?_ ?_
    · rw [humidity_quotient, exactHumidity, fifth]; push_cast; ring
    · push_cast; rw [abs_le]; constructor <;> linarith
  rw [cvtH_value, exact]
  push_cast
  rfl

theorem cvtT_value_first : (cvtT f 0).value = -45 := (cvtT_value_of_fifth f (k := 0) rfl).trans (by norm_num)

theorem cvtT_value_last : (cvtT f 65535).value = 130 := (cvtT_value_of_fifth f (k := 5) rfl).trans (by norm_num)

theorem cvtH_value_first : (cvtH f 0).value = 0 := (cvtH_value_of_fifth f (k := 0) rfl).trans (by norm_num)

theorem cvtH_value_last : (cvtH f 65535).value = 100 := (cvtH_value_of_fifth f (k := 5) rfl).trans (by norm_num)

/-- Settles O24: the exact values of two counts are further apart than twice the error of a conversion; the end points
are exact. -/
theorem conversionsStrictlyIncrease : Obligations.ConversionsStrictlyIncrease :=
  fun f => ⟨fun _ _ lt => ⟨cvtT_value_lt f lt, cvtH_value_lt f lt⟩, cvtT_value_first f, cvtT_value_last f,
    cvtH_value_first f, cvtH_value_last f⟩

/-- A binary value is a fraction over a power of two, and 13107 is odd: it is no proper fraction over 13107. -/
theorem dvd_of_binary_value {x : Binary} {a b n : ℕ} (coprime : Nat.Coprime 13107 a)
    (exact : x.value = a * b / 13107 - n) : 13107 ∣ b := by
  rw [Binary.value, two_zpow_eq_div] at exact
  generalize x.exp.toNat = i, (-x.exp).toNat = j at exact
  have whole : (13107 : ℚ) * (x.signed * 2 ^ i + n * 2 ^ j) = a * 2 ^ j * b := by
    field_simp at exact
    linear_combination exact
  have divides : 13107 ∣ a * 2 ^ j * b := Int.natCast_dvd_natCast.1 (Dvd.intro _ (mod_cast whole))
  exact (coprime.mul_right (Nat.Coprime.pow_right j (by decide))).dvd_of_dvd_mul_left divides

theorem mem_fifths_iff (c : Count) : c.toNat ∈ [0, 13107, 26214, 39321, 52428, 65535] ↔ 13107 ∣ c.toNat := by
  have := c.isLt
  simp only [List.mem_cons, List.not_mem_nil, or_false]
  omega

/-- Settles O25: an exact result is a fraction over 13107 that a binary value can be, so a whole number. -/
theorem conversionsAreExactAtSixCounts : Obligations.ConversionsAreExactAtSixCounts := by
  intro f c
  rw [mem_fifths_iff]
  refine ⟨⟨fun exact => ?_, ?_⟩, ⟨fun exact => ?_, ?_⟩⟩
  · refine dvd_of_binary_value (x := temperature f c) (a := 35) (n := 45) (by decide) ?_
    rw [← (cvtT_normal f c).2, exact]
    push_cast
    ring
  · rintro ⟨k, fifth⟩
    rw [cvtT_value_of_fifth f fifth, fifth]
    push_cast
    ring
  · refine dvd_of_binary_value (x := humidity f c) (a := 20) (n := 0) (by decide) ?_
    rw [← cvtH_value, exact]
    push_cast
    ring
  · rintro ⟨k, fifth⟩
    rw [cvtH_value_of_fifth f fifth, fifth]
    push_cast
    ring

/-! Range. -/

/-- Settles O45: the caches hold conversions, which lie between those of the first count and of the last. -/
theorem cachedValuesAreInRange : Obligations.CachedValuesAreInRange := by
  intro s hs written
  obtain ⟨⟨c, ht⟩, ⟨d, hh⟩⟩ := hs.caches written
  rw [ht, hh, ← cvtT_value_first s.cfg.fmt, ← cvtT_value_last s.cfg.fmt, ← cvtH_value_first s.cfg.fmt,
    ← cvtH_value_last s.cfg.fmt]
  exact ⟨cvtT_value_le _ (Nat.zero_le _), cvtT_value_le _ (Nat.le_of_lt_succ c.isLt),
    cvtH_value_le _ (Nat.zero_le _), cvtH_value_le _ (Nat.le_of_lt_succ d.isLt)⟩

/-! `CVTT` and `CVTH`. -/

/-- Settles O26: the response by definition, and the examples computed. -/
theorem cvttAnswersTheTemperature : Obligations.CvttAnswersTheTemperature :=
  ⟨fun _ _ _ => ⟨rfl, rfl⟩, by decide +kernel⟩

/-- Settles O27: the response by definition, and the examples computed. -/
theorem cvthAnswersTheHumidity : Obligations.CvthAnswersTheHumidity :=
  ⟨fun _ _ _ => ⟨rfl, rfl⟩, by decide +kernel⟩

end Sys2Proof.Machine
end

section
/-! SUPPORT. What the operations leave alone (spec 20_memory.md R31; 44_access.md R106; 95_test_vectors.md section 3):
the registers each may write, the transport calls each makes, and the answers that do not depend on the history. -/

namespace Sys2Proof.Machine

variable {s t : State}

/-! Read attempts. -/

/-- Settles O33: an error raised answers `NORESULT`, a commit the pair it writes. -/
theorem resultPresentIffNoError : Obligations.ResultPresentIffNoError := by
  intro i s t attempt h
  obtain ⟨u, during, ends⟩ := readAttempt_ends attempt h
  cases ends with
  | failed e isError =>
    exact ⟨.noResult, lastResponse_respond _ _, iff_of_false nofun isError, fun noError => absurd noError isError,
      fun _ => rfl⟩
  | committed hi lo hi' lo' =>
    exact ⟨.result _ _, lastResponse_respond _ _, iff_of_true rfl during.err, fun _ => rfl,
      fun error => absurd during.err error⟩

/-- The two machines hold the same registers and have sent the same response last. -/
structure State.SameOutcome (u v : State) : Prop where
  err : u.err = v.err
  tVal : u.tVal = v.tVal
  hVal : u.hVal = v.hVal
  haveFlag : u.haveFlag = v.haveFlag
  addr : u.addr = v.addr
  lastResponse : u.lastResponse = v.lastResponse

section Attempting

variable {u v : State} (hu : s.Attempting u) (hv : s.Attempting v)
include hu hv

theorem State.Attempting.raise_sameOutcome (e : Err) : (u.raise e).SameOutcome (v.raise e) :=
  ⟨rfl, hu.tVal.trans hv.tVal.symm, hu.hVal.trans hv.hVal.symm, hu.haveFlag.trans hv.haveFlag.symm,
    hu.addr.trans hv.addr.symm, (lastResponse_respond _ _).trans (lastResponse_respond _ _).symm⟩

theorem State.Attempting.commitAndReturn_sameOutcome (x y : Flt) :
    (u.commitAndReturn x y).SameOutcome (v.commitAndReturn x y) :=
  ⟨hu.err.trans hv.err.symm, rfl, rfl, rfl, hu.addr.trans hv.addr.symm,
    (lastResponse_respond _ _).trans (lastResponse_respond _ _).symm⟩

/-- Whatever calls a read attempt has made for its frame, processing it comes out the same. -/
theorem State.Attempting.processFrame_sameOutcome (fb : Frame) :
    (u.processFrame fb).SameOutcome (v.processFrame fb) := by
  obtain ⟨b0, b1, b2, b3, b4, b5⟩ := fb
  by_cases goodT : crc8 b0 b1 = b2
  · by_cases goodH : crc8 b3 b4 = b5
    · rw [processFrame_of_good u goodT goodH, processFrame_of_good v goodT goodH, hu.cfg, hv.cfg]
      exact hu.commitAndReturn_sameOutcome hv _ _
    · rw [processFrame_of_badHumidity u goodT goodH, processFrame_of_badHumidity v goodT goodH]
      exact hu.raise_sameOutcome hv _
  · rw [processFrame_of_badTemperature u goodT, processFrame_of_badTemperature v goodT]
    exact hu.raise_sameOutcome hv _

end Attempting

theorem calls_processFrame (u : State) (fb : Frame) : (u.processFrame fb).calls = u.calls := by
  unfold State.processFrame
  split
  · split
    · rfl
    · rfl
  · rfl

/-- Settles O31: both attempts process the same frame, one after clearing `ERR` alone, the other after its calls. -/
theorem frameEqualsMeasOnThatFrame : Obligations.FrameEqualsMeasOnThatFrame := by
  intro b0 b1 b2 b3 b4 b5 short s m written answered h
  rw [execMeas_of_frameRead written answered] at h; cases h
  have ⟨err, tVal, hVal, haveFlag, addr, lastResponse⟩ :=
    (attempting_clearErr s).processFrame_sameOutcome (attempting_frameRead s) ⟨b0, b1, b2, b3, b4, b5⟩
  exact ⟨_, execFrame_eq s b0 b1 b2 b3 b4 b5, err, tVal, hVal, haveFlag, addr, lastResponse, calls_processFrame _ _⟩

/-! Other operations. -/

/-- What an operation that is no read attempt can do: send a response, after it has set a legal address or probed. -/
inductive State.Answers (s : State) : Instr → State → Prop
  | responds (i : Instr) (r : Response) : s.Answers i (s.respond r)
  | setsAddr (a : Byte) (legal : addressByteLegal a = true) :
      s.Answers (.setaddr a) ((s.withAddr (addressOfByte a)).respond .ok)
  | scans : s.Answers .scan ((scanFrom validAddresses s).2.respond (.addresses (scanFrom validAddresses s).1))

theorem exec_answersWith {i : Instr} (noAttempt : isReadAttempt i = false) (h : exec i s = .next t) :
    s.Answers i t := by
  cases i with
  | frame => cases noAttempt
  | meas => cases noAttempt
  | scan => cases h; exact .scans
  | setaddr a =>
    obtain ⟨legal, ends⟩ | ⟨_, ends⟩ := execSetaddr_cases a s
    · rw [ends] at h; cases h; exact .setsAddr a legal
    · rw [ends] at h; cases h; exact .responds _ _
  | _ => cases h; exact .responds _ _

theorem scanFrom_validAddresses_state (s : State) :
    (scanFrom validAddresses s).2 = { s with
      writeScript := s.writeScript.drop 127, calls := s.calls + 127,
      history := s.history ++ (List.range 127).map fun k =>
        .write (BitVec.ofNat 7 (k + 1)) [s.cfg.probeByte] (s.writeAnswer k) } :=
  scanFrom_range_state s _ 127

theorem sameRegisters_scanFrom (s : State) : s.SameRegisters (scanFrom validAddresses s).2 := by
  rw [scanFrom_validAddresses_state]
  exact ⟨rfl, rfl, rfl, rfl, rfl, rfl, rfl⟩

theorem phase_scanFrom (s : State) : (scanFrom validAddresses s).2.phase = s.phase := by
  rw [scanFrom_validAddresses_state]

/-- A read attempt keeps the parameters, the command stream and the address. -/
theorem State.EndsAttempt.frame {u : State} (h : u.EndsAttempt t) :
    t.cfg = u.cfg ∧ t.input = u.input ∧ t.addr = u.addr := by
  cases h <;> exact ⟨rfl, rfl, rfl⟩

/-- Settles O46, by what a read attempt and what another operation can do. -/
theorem onlyTheNamedOperationsWriteRegisters : Obligations.OnlyTheNamedOperationsWriteRegisters := by
  intro i s t h
  cases attempt : isReadAttempt i with
  | true =>
    obtain ⟨u, during, ends⟩ := readAttempt_ends attempt h
    obtain ⟨cfg, input, addr⟩ := ends.frame
    exact ⟨cfg.trans during.cfg, input.trans during.input, fun changed => absurd (addr.trans during.addr) changed,
      nofun⟩
  | false =>
    cases exec_answersWith attempt h with
    | responds => exact ⟨rfl, rfl, fun changed => absurd rfl changed, fun _ => ⟨rfl, rfl, rfl, rfl, rfl⟩⟩
    | setsAddr a legal => exact ⟨rfl, rfl, fun _ => ⟨a, rfl, legal⟩, fun _ => ⟨rfl, rfl, rfl, rfl, rfl⟩⟩
    | scans =>
      have same := sameRegisters_scanFrom s
      exact ⟨same.cfg, same.input, fun changed => absurd same.addr changed,
        fun _ => ⟨same.err, same.haveFlag, same.tVal, same.hVal, phase_scanFrom s⟩⟩

/-! Pure operations. -/

/-- Settles O47: each of the eight sends a response it takes from its operands, the parameters and the registers. -/
theorem pureOperationsAreIdempotent : Obligations.PureOperationsAreIdempotent := by
  intro i s pure
  cases i with
  | frame => simp [Instr.opName] at pure
  | meas => simp [Instr.opName] at pure
  | setaddr => simp [Instr.opName] at pure
  | scan => simp [Instr.opName] at pure
  | _ => exact ⟨_, rfl, fun _ => rfl⟩

/-- Settles O35: each response by definition; the byte of `ERR` is its code. -/
theorem accessorsAnswerTheRegisters : Obligations.AccessorsAnswerTheRegisters := by
  refine fun s => ⟨rfl, rfl, rfl, rfl, rfl, ?_⟩
  have answers : exec .geterr s = .next (s.respond (.classification s.err)) := rfl
  rw [answers, respond_eq]
  cases s.err <;> rfl

/-! Transport calls. -/

/-- `t` comes from `s` by events of which `n` are transport calls, each counted. -/
def State.Calls (n : Nat) (s t : State) : Prop :=
  ∃ events, t.history = s.history ++ events ∧ t.calls = s.calls + (events.filter Event.isCall).length ∧
    (events.filter Event.isCall).length = n

section Calls

variable {n : Nat} {u : State}

theorem calls_refl (s : State) : s.Calls 0 s := ⟨[], by simp, rfl, rfl⟩

/-- The rule behind the others: more events, and the calls among them counted. -/
theorem State.Calls.extend (hu : s.Calls n u) {v : State} (es : List Event) (history : v.history = u.history ++ es)
    (calls : v.calls = u.calls + (es.filter Event.isCall).length) :
    s.Calls (n + (es.filter Event.isCall).length) v := by
  obtain ⟨events, history', calls', count⟩ := hu
  refine ⟨events ++ es, ?_, ?_, ?_⟩
  · rw [history, history', List.append_assoc]
  · rw [calls, calls', List.filter_append, List.length_append, Nat.add_assoc]
  · rw [List.filter_append, List.length_append, count]

theorem State.Calls.withAddr (hu : s.Calls n u) (a : BusAddr) : s.Calls n (u.withAddr a) := hu

theorem State.Calls.respond (hu : s.Calls n u) (r : Response) : s.Calls n (u.respond r) :=
  hu.extend [.response r.bytes] rfl rfl

theorem State.Calls.clearErr (hu : s.Calls n u) : s.Calls n u.clearErr := hu.extend [.errCleared] rfl rfl

theorem State.Calls.delay (hu : s.Calls n u) (ms : Nat) : s.Calls n (u.delay ms) := hu.extend [.delay ms] rfl rfl

theorem State.Calls.transportWrite (hu : s.Calls n u) (a : BusAddr) (bs : List Byte) :
    s.Calls (n + 1) (u.transportWrite a bs) := hu.extend [.write a bs u.nextWrite] rfl rfl

theorem State.Calls.transportRead (hu : s.Calls n u) (a : BusAddr) (k : Nat) :
    s.Calls (n + 1) (u.transportRead a k) := hu.extend [.read a k u.nextRead] rfl rfl

theorem State.Calls.raise (hu : s.Calls n u) (e : Err) : s.Calls n (u.raise e) :=
  hu.extend [.errSet e, .response [0x00]] (raise_history u e) rfl

theorem State.Calls.processFrame (hu : s.Calls n u) (fb : Frame) : s.Calls n (u.processFrame fb) := by
  unfold State.processFrame
  split
  · split
    · rw [commitAndReturn_eq]; exact hu.extend [.commit _ _, .response _] rfl rfl
    · exact hu.raise _
  · exact hu.raise _

theorem calls_commandWritten (s : State) : s.Calls 1 s.commandWritten := (calls_refl s).clearErr.transportWrite _ _

theorem calls_frameRead (s : State) : s.Calls 2 s.frameRead := ((calls_commandWritten s).delay _).transportRead _ _

/-- One call for each address of the row. -/
theorem State.Calls.scanFrom (hu : s.Calls n u) (as : List BusAddr) :
    s.Calls (n + as.length) (Machine.scanFrom as u).2 := by
  rw [scanFrom_state]
  induction as generalizing n u with
  | nil => exact hu
  | cons a as ih =>
    rw [List.length_cons, Nat.add_comm as.length, ← Nat.add_assoc]
    exact ih (hu.transportWrite a _)

end Calls

theorem length_validAddresses : validAddresses.length = 127 := by simp [validAddresses]

/-- Settles O49: how far `MEAS` goes decides its calls; `SCAN` makes one for each valid address. -/
theorem transportCallsPerOperation : Obligations.TransportCallsPerOperation := by
  intro i s t h
  cases i with
  | meas =>
    cases h
    obtain ⟨failed, ends⟩ | ⟨written, _, ends⟩ | ⟨fb, _, written, _, ends⟩ := finish_beginMeas_cases s
    · rw [ends, failed]; exact (calls_commandWritten s).raise _
    · rw [ends, written]; exact (calls_frameRead s).raise _
    · rw [ends, written]; exact (calls_frameRead s).processFrame fb
  | frame b0 b1 b2 b3 b4 b5 => rw [execFrame_eq] at h; cases h; exact (calls_refl s).clearErr.processFrame _
  | scan =>
    cases h
    have probes := (calls_refl s).scanFrom validAddresses
    rw [length_validAddresses] at probes
    exact probes.respond _
  | setaddr a =>
    obtain ⟨_, ends⟩ | ⟨_, ends⟩ := execSetaddr_cases a s
    · rw [ends] at h; cases h; exact ((calls_refl s).withAddr _).respond _
    · rw [ends] at h; cases h; exact (calls_refl s).respond _
  | _ => cases h; exact (calls_refl s).respond _

/-! The host. -/

/-- Settles O56: both moves of the host ask for the phase alone. -/
theorem hostMovesOnlyTowardsIdleInstances : Obligations.HostMovesOnlyTowardsIdleInstances :=
  fun _ _ _ _ _ => ⟨fun busy => ⟨if_neg busy, if_neg busy⟩, fun idle => ⟨if_pos idle, if_pos idle⟩⟩

end Sys2Proof.Machine
end
